-- ==== Sys2Proof/Word.lean ====
section
/-! DEFINITION. The block's word types (spec/00_scope.md R9): bytes, 16-bit and 32-bit unsigned words. Bits are numbered
from 0 at the least significant end; addition wraps. -/

namespace Sys2Proof

/-- `u8` of R9. -/
abbrev Byte := BitVec 8

/-- `u16` of R9. -/
abbrev U16 := BitVec 16

/-- `u32` of R9. -/
abbrev U32 := BitVec 32

end Sys2Proof
end

