-- ==== Sys2Proof/Syntax.lean ====
section
/-! DEFINITION. The operations of the block as syntax: one constructor of `Instr` per row of spec/opcode_table.json (the two
rows named KISS.Unknown have one each), the operand types of spec/30_encoding.md R69, the agents of spec/10_state.md
R41, and the formats of the table. -/

namespace Sys2Proof

/-- An address record, the operand form of R101: the callsign's bytes and the SSID, neither checked by the block. -/
structure Addr where
  callsign : List Byte
  ssid : Byte
deriving DecidableEq, Repr, Inhabited

/-- The command class of a KISS command byte (R62). -/
inductive Cmd where
  | data | txDelay | persistence | slotTime | txTail | fullDuplex | setHardware | ret | unknown
deriving DecidableEq, Repr

/-- Who issues operations (R41). `hostThread` is the dedicated thread on which a host may run CA.CSMA (R147, R159): the
host agent split in two. -/
inductive Agent where
  | host | hostThread | radio | timer
deriving DecidableEq, Repr

/-- Which byte of an AX.25 frame an AX25_FIELD row describes (R65, R66, R67): its position, which the byte does not say. -/
inductive AxPos where
  | call | ssid | control | pid
deriving DecidableEq, Repr

/-- The `format` column of spec/opcode_table.json: in which of the block's byte formats an item is read. -/
inductive Format where
  | op
  | kissByte
  | kissCmd
  | sethwSub
  | axField (pos : AxPos)
deriving DecidableEq, Repr

/-- One transfer of the interleaving (R52): the agent that moves and the format its next item is read in. -/
structure Slot where
  agent : Agent
  fmt : Format
deriving DecidableEq, Repr

/-- The rows of spec/opcode_table.json. The first nineteen are the operations of R69 (format OP). The KISS_CMD and SETHW_SUB rows
carry the rest of their KISS frame as operands, the KISS_BYTE rows are bytes of the host receive stream, and the AX25_FIELD
rows carry the fields of their byte. -/
inductive Instr where
  -- BLK (44_block.md)
  | blkReset
  | blkRdreg (n : Byte)
  -- KF (40_kiss_framer.md)
  | kfRxbyte (b : Byte)
  | kfRxreset
  | kfClrstat (m : Byte)
  | kfEncode (c : Byte) (p : List Byte)
  -- AX (41_ax25_codec.md)
  | axPackaddr (a : Addr) (last : Bool)
  | axUnpackaddr (f : List Byte)
  | axParse (buf : List Byte)
  | axEncodeui (dest src : Addr) (digis : List Addr) (p : List Byte)
  -- CRC (42_crc16.md)
  | crcInit
  | crcByte (b : Byte)
  | crcCalc (buf : List Byte)
  -- CA (43_channel_access.md)
  | caSetcfg (sel : Byte) (v : U32)
  | caBusy (b : Bool)
  | caCheck (r : Byte)
  | caTxdone
  | caTick
  | caRxok
  -- KISS_CMD: a KISS frame of this command class arrives (30_encoding.md R60 to R62; 40_kiss_framer.md R90 to R98)
  | kissReturn (p : List Byte)
  | kissData (port : BitVec 4) (p : List Byte)
  | kissTxDelay (port : BitVec 4) (p : List Byte)
  | kissPersistence (port : BitVec 4) (p : List Byte)
  | kissSlotTime (port : BitVec 4) (p : List Byte)
  | kissTxTail (port : BitVec 4) (p : List Byte)
  | kissFullDuplex (port : BitVec 4) (p : List Byte)
  | kissSetHardware (port : BitVec 4) (p : List Byte)
  /-- the row with low nibble 0x7 -/
  | kissUnknown7 (port : BitVec 4) (p : List Byte)
  /-- the row with low nibble 0x8 to 0xF: `low` is bits 2:0 of the command byte -/
  | kissUnknownHigh (port : BitVec 4) (low : BitVec 3) (p : List Byte)
  -- KISS_BYTE: a named byte of the host receive stream arrives (30_encoding.md R58)
  | kissByteFend
  | kissByteFesc
  | kissByteTfend
  | kissByteTfesc
  | kissByteEsc
  -- SETHW_SUB: a SetHardware frame with this sub-command arrives (30_encoding.md R64; 40_kiss_framer.md R96)
  | sethwSetFrequency (port : BitVec 4) (args : List Byte)
  | sethwSetBandwidth (port : BitVec 4) (args : List Byte)
  | sethwSetSpreading (port : BitVec 4) (args : List Byte)
  | sethwSetCodingRate (port : BitVec 4) (args : List Byte)
  | sethwSetPower (port : BitVec 4) (args : List Byte)
  | sethwGetConfig (port : BitVec 4) (args : List Byte)
  | sethwSaveConfig (port : BitVec 4) (args : List Byte)
  | sethwResetConfig (port : BitVec 4) (args : List Byte)
  | sethwSetSyncWord (port : BitVec 4) (args : List Byte)
  -- AX25_FIELD: one byte of an AX.25 frame (30_encoding.md R65, R66, R68)
  | ax25ControlUi
  | ax25PidNone
  | ax25SsidByte (ext : Bool) (ssid : BitVec 4)
  | ax25CallByte (ch : BitVec 7)
deriving DecidableEq, Repr

/-- Why bytes are no operation. -/
inductive DecodeError where
  /-- R134: the bytes end inside the operand (log entry 1) -/
  | truncated
  /-- R70 (a): an op-select code that R69 does not list -/
  | reservedOpcode (c : Byte)
  /-- R134: an operand that is not of its declared type: a Bool byte that is neither 0 nor 1 -/
  | badBool (b : Byte)
  /-- R134: a list marker that is neither 0 (end) nor 1 (an element follows), log entry 1 -/
  | badMarker (b : Byte)
  /-- R63: a port wider than 4 bits -/
  | badPort (b : Byte)
  /-- a byte that does not match the AX25_FIELD row of its position (the model's choice, log entry 25) -/
  | badField (pos : AxPos) (b : Byte)
deriving DecidableEq, Repr

/-- What reading an item from bytes gives: the item and the bytes after it, or why there is none. -/
inductive Decoded (α : Type) where
  | ok (a : α) (rest : List Byte)
  | bad (e : DecodeError)
deriving DecidableEq, Repr

/-- What the helper `compose` of R63 gives: a command byte, a refusal (a port wider than 4 bits), or no meaning (Unknown). -/
inductive Composed where
  | byte (b : Byte)
  | refused
  | undefined
deriving DecidableEq, Repr

end Sys2Proof
end

