-- ==== Sys2Proof/Config.lean ====
section
/-! DEFINITION. The implementation parameters of spec/00_scope.md R7 and the free values. A parameter the spec marks OPEN is an
opaque constant: no claim can see its value. Every rule that reads one takes `Params` as an argument (R7: "A model takes
each one marked OPEN as an argument"); the machine is the one at `Config.params`. -/

namespace Sys2Proof

/-- The OPEN parameters of R7. -/
structure Params where
  /-- RXCAP less 512: R7 asks for RXCAP ≥ 512 (log entry 6) -/
  rxCapExtra : Nat
  /-- RETURN_EMITS_FRAME (log entry 7) -/
  returnEmitsFrame : Bool
  /-- RESET_PERSISTENCE (log entry 8) -/
  resetPersistence : Byte
  /-- RESET_SLOT_TIME (log entry 8) -/
  resetSlotTime : U16
deriving DecidableEq, Repr

/-- RXCAP: the capacity of the receive buffer, the command byte counted (R7, R75). -/
def Params.rxCap (p : Params) : Nat := p.rxCapExtra + 512

opaque Config.rxCapExtra : Nat
opaque Config.returnEmitsFrame : Bool
opaque Config.resetPersistence : Byte
opaque Config.resetSlotTime : U16

/-- The parameters of this model's machine: every one uninterpreted. -/
def Config.params : Params :=
  ⟨Config.rxCapExtra, Config.returnEmitsFrame, Config.resetPersistence, Config.resetSlotTime⟩

/-- RESET_DEAF_MS of R7. -/
def Config.resetDeafMs : U32 := 2000#32

/-- SLOT_UNIT_MS of R7 (conflict C4). -/
def Config.slotUnitMs : U32 := 10#32

/-- MAX_DIGIS of R7. -/
def Config.maxDigis : Nat := 8

/-- MAX_ADDR_FIELDS of R7. -/
def Config.maxAddrFields : Nat := 10

/-- CALL_LEN of R7. -/
def Config.callLen : Nat := 6

/-- The fields of a ParsedFrame (R105) other than `valid` and `reason`. -/
structure ParsedFields where
  nfields : Nat
  dest : Addr
  src : Addr
  digis : List Addr
  headerLength : Nat
deriving DecidableEq, Repr, Inhabited

/-- FREE VALUE: what a byte of kf_buf that holds no defined value reads as (R45; log entry 9). -/
opaque Config.unwrittenByte : Nat → Byte

/-- FREE VALUE: the fields of the n-th invalid ParsedFrame, which R106 leaves unspecified (log entry 10). -/
opaque Config.freeFields : Nat → ParsedFields

end Sys2Proof
end

