-- ==== Sys2Proof/WellFormed.lean ====
section
/-! DEFINITION. Which terms of `Instr` are well formed: the operand conditions of spec/60_exceptions.md R134 under which an
operation is not refused. `Instr.encodable` is the part an encoding needs; `Instr.wf` adds the rest. -/

namespace Sys2Proof

/-- The register numbers of 10_state.md R38. -/
def listedRegisters : List Byte :=
  [0x00, 0x01, 0x02, 0x03, 0x04, 0x05, 0x06, 0x07, 0x10, 0x20, 0x21, 0x22, 0x23, 0x24, 0x25, 0x26, 0x27, 0x28]

/-- The operand has an encoding: a Field7 has exactly 7 bytes (R69), and a command byte of class Unknown is not the whole
byte 0xFF, which is Return (R62). -/
def Instr.encodable : Instr → Bool
  | .axUnpackaddr f => f.length == 7
  | .kissUnknownHigh port low _ => !(port == 15#4 && low == 7#3)
  | .blkReset | .blkRdreg _ | .kfRxbyte _ | .kfRxreset | .kfClrstat _ | .kfEncode _ _ | .axPackaddr _ _ | .axParse _
  | .axEncodeui _ _ _ _ | .crcInit | .crcByte _ | .crcCalc _ | .caSetcfg _ _ | .caBusy _ | .caCheck _ | .caTxdone
  | .caTick | .caRxok | .kissReturn _ | .kissData _ _ | .kissTxDelay _ _ | .kissPersistence _ _ | .kissSlotTime _ _
  | .kissTxTail _ _ | .kissFullDuplex _ _ | .kissSetHardware _ _ | .kissUnknown7 _ _ | .kissByteFend | .kissByteFesc
  | .kissByteTfend | .kissByteTfesc | .kissByteEsc | .sethwSetFrequency _ _ | .sethwSetBandwidth _ _
  | .sethwSetSpreading _ _ | .sethwSetCodingRate _ _ | .sethwSetPower _ _ | .sethwGetConfig _ _ | .sethwSaveConfig _ _
  | .sethwResetConfig _ _ | .sethwSetSyncWord _ _ | .ax25ControlUi | .ax25PidNone | .ax25SsidByte _ _ | .ax25CallByte _ => true

/-- The operands have a meaning in the state-independent sense of R134: encodable, a listed register number (R131), a legal
configuration write (R119), at most 8 digipeaters (R107). -/
def Instr.wf (i : Instr) : Bool :=
  i.encodable && (match i with
  | .blkRdreg n => listedRegisters.contains n
  | .axEncodeui _ _ digis _ => decide (digis.length ≤ 8)
  | .caSetcfg sel v => sel == 0 && decide (v.toNat ≤ 0xFF) || sel == 1 && decide (v.toNat ≤ 0xFFFF) || sel == 2
  | .blkReset | .kfRxbyte _ | .kfRxreset | .kfClrstat _ | .kfEncode _ _ | .axPackaddr _ _ | .axUnpackaddr _ | .axParse _
  | .crcInit | .crcByte _ | .crcCalc _ | .caBusy _ | .caCheck _ | .caTxdone | .caTick | .caRxok | .kissReturn _
  | .kissData _ _ | .kissTxDelay _ _ | .kissPersistence _ _ | .kissSlotTime _ _ | .kissTxTail _ _ | .kissFullDuplex _ _
  | .kissSetHardware _ _ | .kissUnknown7 _ _ | .kissUnknownHigh _ _ _ | .kissByteFend | .kissByteFesc | .kissByteTfend
  | .kissByteTfesc | .kissByteEsc | .sethwSetFrequency _ _ | .sethwSetBandwidth _ _ | .sethwSetSpreading _ _
  | .sethwSetCodingRate _ _ | .sethwSetPower _ _ | .sethwGetConfig _ _ | .sethwSaveConfig _ _ | .sethwResetConfig _ _
  | .sethwSetSyncWord _ _ | .ax25ControlUi | .ax25PidNone | .ax25SsidByte _ _ | .ax25CallByte _ => true)

end Sys2Proof
end

