-- ==== Sys2Proof/Decode.lean ====
section
/-! DEFINITION. The encodings of spec/30_encoding.md: the byte constants, the escape map, the command byte, the AX.25 field
bytes, and the decoder and encoder of `Instr` in each format of spec/opcode_table.json. An operation is its op-select byte
(R69) followed by its operands; the spec does not fix how operands are carried (R69), the carrying here is the model's own
(log entry 1). -/

namespace Sys2Proof

/-! ### Constants (R58, R68) -/

def fend : Byte := 0xC0
def fesc : Byte := 0xDB
def tfend : Byte := 0xDC
def tfesc : Byte := 0xDD
def escSentinel : Byte := 0x1B
def returnByte : Byte := 0xFF
def controlUi : Byte := 0x03
def pidNone : Byte := 0xF0

/-! ### KISS bytes -/

/-- The escape map of R59. -/
def esc (b : Byte) : List Byte :=
  if b = fend then [fesc, tfend] else if b = fesc then [fesc, tfesc] else [b]

/-- Bits 7:4 of a command byte (R61). -/
def portOf (c : Byte) : BitVec 4 := c.extractLsb' 4 4

/-- The command class of a command byte (R62): the whole-byte test for 0xFF comes first. -/
def classify (c : Byte) : Cmd :=
  if c = returnByte then .ret
  else match (c.extractLsb' 0 4).toNat with
    | 0 => .data
    | 1 => .txDelay
    | 2 => .persistence
    | 3 => .slotTime
    | 4 => .txTail
    | 5 => .fullDuplex
    | 6 => .setHardware
    | _ => .unknown

/-- A command byte from its two fields (R61). -/
def commandByte (port code : BitVec 4) : Byte := port ++ code

/-- The helper of R63: it refuses a port wider than 4 bits and has no meaning for Unknown. -/
def compose (port : Nat) (cmd : Cmd) : Composed :=
  if 15 < port then .refused
  else
    let p := BitVec.ofNat 4 port
    match cmd with
    | .ret => .byte returnByte
    | .data => .byte (commandByte p 0)
    | .txDelay => .byte (commandByte p 1)
    | .persistence => .byte (commandByte p 2)
    | .slotTime => .byte (commandByte p 3)
    | .txTail => .byte (commandByte p 4)
    | .fullDuplex => .byte (commandByte p 5)
    | .setHardware => .byte (commandByte p 6)
    | .unknown => .undefined

/-- The bytes of a KISS frame on the wire (R60, R89): FEND, the escaped command byte, the escaped payload, FEND. -/
def wireFrame (c : Byte) (p : List Byte) : List Byte := [fend] ++ esc c ++ p.flatMap esc ++ [fend]

/-! ### AX.25 field bytes -/

/-- The callsign byte of a character (R65): the character shifted left by one, bit 7 lost. -/
def callByte (ch : Byte) : Byte := ch <<< 1

/-- The SSID byte (R66): `0x60 | (ssid << 1) | E`. -/
def ssidByte (ssid : BitVec 4) (ext : Bool) : Byte :=
  (0x60 ||| (ssid.setWidth 8 <<< 1)) ||| (BitVec.ofBool ext).setWidth 8

/-! ### Reading operands (the model's own carrying, log entry 1) -/

/-- Go on with the bytes after an item. -/
def Decoded.bind {α β : Type} (d : Decoded α) (f : α → List Byte → Decoded β) : Decoded β :=
  match d with
  | .ok a rest => f a rest
  | .bad e => .bad e

/-- Turn the item read into another. -/
def Decoded.map {α β : Type} (f : α → β) (d : Decoded α) : Decoded β := d.bind fun a rest => .ok (f a) rest

def readByte : List Byte → Decoded Byte
  | b :: t => .ok b t
  | [] => .bad .truncated

/-- A Bool is one byte, 0 or 1; another byte is not of the declared type (R134). -/
def readBool : List Byte → Decoded Bool
  | b :: t => if b = 0 then .ok false t else if b = 1 then .ok true t else .bad (.badBool b)
  | [] => .bad .truncated

/-- A u32 is four bytes, the least significant first. -/
def readU32 : List Byte → Decoded U32
  | b0 :: b1 :: b2 :: b3 :: t => .ok (b3 ++ b2 ++ b1 ++ b0) t
  | _ => .bad .truncated

/-- A port is one byte, 0 to 15 (R63). -/
def readPort : List Byte → Decoded (BitVec 4)
  | b :: t => if b.toNat ≤ 15 then .ok (b.extractLsb' 0 4) t else .bad (.badPort b)
  | [] => .bad .truncated

/-- A list of bytes of any length: each element behind a byte 1, the end a byte 0. -/
def readSeq : List Byte → Decoded (List Byte)
  | [] => .bad .truncated
  | m :: t =>
    if m = 0 then .ok [] t
    else if m = 1 then
      match t with
      | [] => .bad .truncated
      | b :: u => (readSeq u).map (b :: ·)
    else .bad (.badMarker m)

/-- A Field7 is its seven bytes. -/
def readField7 : List Byte → Decoded (List Byte)
  | b0 :: b1 :: b2 :: b3 :: b4 :: b5 :: b6 :: t => .ok [b0, b1, b2, b3, b4, b5, b6] t
  | _ => .bad .truncated

/-- An address record: the callsign as a list, then the SSID. -/
def readAddr (bs : List Byte) : Decoded Addr :=
  (readSeq bs).bind fun cs t => (readByte t).map fun s => ⟨cs, s⟩

/-- A list of address records, carried as `readSeq` carries bytes; `fuel` bounds the number of elements. -/
def readAddrs : (fuel : Nat) → List Byte → Decoded (List Addr)
  | 0, _ => .bad .truncated
  | fuel + 1, bs =>
    match bs with
    | [] => .bad .truncated
    | m :: t =>
      if m = 0 then .ok [] t
      else if m = 1 then (readAddr t).bind fun a u => (readAddrs fuel u).map (a :: ·)
      else .bad (.badMarker m)

/-! ### The decoder -/

/-- Format OP (R69): the op-select byte and the operands in the order of the table. A code R69 does not list is reserved and
refused (R70 (a)). -/
def decodeOp : List Byte → Decoded Instr
  | [] => .bad .truncated
  | c :: t =>
    match c.toNat with
    | 0x00 => .ok .blkReset t
    | 0x01 => (readByte t).map .blkRdreg
    | 0x10 => (readByte t).map .kfRxbyte
    | 0x11 => .ok .kfRxreset t
    | 0x12 => (readByte t).map .kfClrstat
    | 0x13 => (readByte t).bind fun cmd u => (readSeq u).map (.kfEncode cmd)
    | 0x20 => (readAddr t).bind fun a u => (readBool u).map (.axPackaddr a)
    | 0x21 => (readField7 t).map .axUnpackaddr
    | 0x22 => (readSeq t).map .axParse
    | 0x23 =>
      (readAddr t).bind fun dest u => (readAddr u).bind fun src v =>
        (readAddrs v.length v).bind fun digis w => (readSeq w).map (.axEncodeui dest src digis)
    | 0x30 => .ok .crcInit t
    | 0x31 => (readByte t).map .crcByte
    | 0x32 => (readSeq t).map .crcCalc
    | 0x40 => (readByte t).bind fun sel u => (readU32 u).map (.caSetcfg sel)
    | 0x41 => (readBool t).map .caBusy
    | 0x42 => (readByte t).map .caCheck
    | 0x43 => .ok .caTxdone t
    | 0x44 => .ok .caTick t
    | 0x45 => .ok .caRxok t
    | _ => .bad (.reservedOpcode c)

/-- Format KISS_BYTE (R58): one byte of the host receive stream. A byte with no row of its own is a plain KF.RXBYTE. -/
def decodeKissByte : List Byte → Decoded Instr
  | [] => .bad .truncated
  | b :: t =>
    if b = fend then .ok .kissByteFend t
    else if b = fesc then .ok .kissByteFesc t
    else if b = tfend then .ok .kissByteTfend t
    else if b = tfesc then .ok .kissByteTfesc t
    else if b = escSentinel then .ok .kissByteEsc t
    else .ok (.kfRxbyte b) t

/-- Format KISS_CMD (R61, R62): a de-escaped KISS frame, the command byte first, then the payload as a list. -/
def decodeKissCmd : List Byte → Decoded Instr
  | [] => .bad .truncated
  | c :: t =>
    (readSeq t).map fun p =>
      match classify c with
      | .ret => .kissReturn p
      | .data => .kissData (portOf c) p
      | .txDelay => .kissTxDelay (portOf c) p
      | .persistence => .kissPersistence (portOf c) p
      | .slotTime => .kissSlotTime (portOf c) p
      | .txTail => .kissTxTail (portOf c) p
      | .fullDuplex => .kissFullDuplex (portOf c) p
      | .setHardware => .kissSetHardware (portOf c) p
      | .unknown =>
        if c.getLsbD 3 then .kissUnknownHigh (portOf c) (c.extractLsb' 0 3) p else .kissUnknown7 (portOf c) p

/-- Format SETHW_SUB (R64): payload byte 0 of a SetHardware frame, then the frame's port, then the argument bytes as a list. A code
R64 does not list is not interpreted either (R70 (f)): it is the SetHardware frame with that payload (R96). -/
def decodeSethwSub : List Byte → Decoded Instr
  | [] => .bad .truncated
  | c :: t =>
    (readPort t).bind fun port u => (readSeq u).bind fun args v =>
      match c.toNat with
      | 0x01 => .ok (.sethwSetFrequency port args) v
      | 0x02 => .ok (.sethwSetBandwidth port args) v
      | 0x03 => .ok (.sethwSetSpreading port args) v
      | 0x04 => .ok (.sethwSetCodingRate port args) v
      | 0x05 => .ok (.sethwSetPower port args) v
      | 0x06 => .ok (.sethwGetConfig port args) v
      | 0x07 => .ok (.sethwSaveConfig port args) v
      | 0x08 => .ok (.sethwResetConfig port args) v
      | 0x09 => .ok (.sethwSetSyncWord port args) v
      | _ => .ok (.kissSetHardware port (c :: args)) v

/-- Format AX25_FIELD (R65, R66, R68): one byte of a frame at a known position, with the fixed bits of its row. The spec has no
operation for a lone field byte; that a byte without its row's fixed bits is refused here is the model's choice (log entry
25). AX.UNPACKADDR and AX.PARSE take every byte, as R66 and R68 say. -/
def decodeAxField (pos : AxPos) : List Byte → Decoded Instr
  | [] => .bad .truncated
  | b :: t =>
    match pos with
    | .call => if b.getLsbD 0 then .bad (.badField pos b) else .ok (.ax25CallByte (b.extractLsb' 1 7)) t
    | .ssid =>
      if b.extractLsb' 5 3 = 3#3 then .ok (.ax25SsidByte (b.getLsbD 0) (b.extractLsb' 1 4)) t
      else .bad (.badField pos b)
    | .control => if b = controlUi then .ok .ax25ControlUi t else .bad (.badField pos b)
    | .pid => if b = pidNone then .ok .ax25PidNone t else .bad (.badField pos b)

/-- The decoder: total on any bytes, in each format of the table. -/
def decode (fmt : Format) (bs : List Byte) : Decoded Instr :=
  match fmt with
  | .op => decodeOp bs
  | .kissByte => decodeKissByte bs
  | .kissCmd => decodeKissCmd bs
  | .sethwSub => decodeSethwSub bs
  | .axField pos => decodeAxField pos bs

/-! ### The encoder -/

def encBool (b : Bool) : List Byte := [if b then 1 else 0]

def encU32 (v : U32) : List Byte :=
  [v.extractLsb' 0 8, v.extractLsb' 8 8, v.extractLsb' 16 8, v.extractLsb' 24 8]

def encPort (p : BitVec 4) : List Byte := [p.setWidth 8]

def encSeq : List Byte → List Byte
  | [] => [0]
  | b :: t => 1 :: b :: encSeq t

def encAddr (a : Addr) : List Byte := encSeq a.callsign ++ [a.ssid]

def encAddrs : List Addr → List Byte
  | [] => [0]
  | a :: t => 1 :: (encAddr a ++ encAddrs t)

/-- The format an instruction is encoded in: its row's format in the table. -/
def Instr.format : Instr → Format
  | .blkReset | .blkRdreg _ | .kfRxbyte _ | .kfRxreset | .kfClrstat _ | .kfEncode _ _ | .axPackaddr _ _
  | .axUnpackaddr _ | .axParse _ | .axEncodeui _ _ _ _ | .crcInit | .crcByte _ | .crcCalc _ | .caSetcfg _ _
  | .caBusy _ | .caCheck _ | .caTxdone | .caTick | .caRxok => .op
  | .kissReturn _ | .kissData _ _ | .kissTxDelay _ _ | .kissPersistence _ _ | .kissSlotTime _ _ | .kissTxTail _ _
  | .kissFullDuplex _ _ | .kissSetHardware _ _ | .kissUnknown7 _ _ | .kissUnknownHigh _ _ _ => .kissCmd
  | .kissByteFend | .kissByteFesc | .kissByteTfend | .kissByteTfesc | .kissByteEsc => .kissByte
  | .sethwSetFrequency _ _ | .sethwSetBandwidth _ _ | .sethwSetSpreading _ _ | .sethwSetCodingRate _ _
  | .sethwSetPower _ _ | .sethwGetConfig _ _ | .sethwSaveConfig _ _ | .sethwResetConfig _ _ | .sethwSetSyncWord _ _ => .sethwSub
  | .ax25ControlUi => .axField .control
  | .ax25PidNone => .axField .pid
  | .ax25SsidByte _ _ => .axField .ssid
  | .ax25CallByte _ => .axField .call

/-- The bytes of an instruction in its format. -/
def encode : Instr → List Byte
  | .blkReset => [0x00]
  | .blkRdreg n => [0x01, n]
  | .kfRxbyte b => [0x10, b]
  | .kfRxreset => [0x11]
  | .kfClrstat m => [0x12, m]
  | .kfEncode c p => 0x13 :: c :: encSeq p
  | .axPackaddr a last => 0x20 :: (encAddr a ++ encBool last)
  | .axUnpackaddr f => 0x21 :: f
  | .axParse buf => 0x22 :: encSeq buf
  | .axEncodeui dest src digis p => 0x23 :: (encAddr dest ++ (encAddr src ++ (encAddrs digis ++ encSeq p)))
  | .crcInit => [0x30]
  | .crcByte b => [0x31, b]
  | .crcCalc buf => 0x32 :: encSeq buf
  | .caSetcfg sel v => 0x40 :: sel :: encU32 v
  | .caBusy b => 0x41 :: encBool b
  | .caCheck r => [0x42, r]
  | .caTxdone => [0x43]
  | .caTick => [0x44]
  | .caRxok => [0x45]
  | .kissReturn p => returnByte :: encSeq p
  | .kissData port p => commandByte port 0#4 :: encSeq p
  | .kissTxDelay port p => commandByte port 1#4 :: encSeq p
  | .kissPersistence port p => commandByte port 2#4 :: encSeq p
  | .kissSlotTime port p => commandByte port 3#4 :: encSeq p
  | .kissTxTail port p => commandByte port 4#4 :: encSeq p
  | .kissFullDuplex port p => commandByte port 5#4 :: encSeq p
  | .kissSetHardware port p => commandByte port 6#4 :: encSeq p
  | .kissUnknown7 port p => commandByte port 7#4 :: encSeq p
  | .kissUnknownHigh port low p => commandByte port (1#1 ++ low) :: encSeq p
  | .kissByteFend => [fend]
  | .kissByteFesc => [fesc]
  | .kissByteTfend => [tfend]
  | .kissByteTfesc => [tfesc]
  | .kissByteEsc => [escSentinel]
  | .sethwSetFrequency port args => 0x01 :: (encPort port ++ encSeq args)
  | .sethwSetBandwidth port args => 0x02 :: (encPort port ++ encSeq args)
  | .sethwSetSpreading port args => 0x03 :: (encPort port ++ encSeq args)
  | .sethwSetCodingRate port args => 0x04 :: (encPort port ++ encSeq args)
  | .sethwSetPower port args => 0x05 :: (encPort port ++ encSeq args)
  | .sethwGetConfig port args => 0x06 :: (encPort port ++ encSeq args)
  | .sethwSaveConfig port args => 0x07 :: (encPort port ++ encSeq args)
  | .sethwResetConfig port args => 0x08 :: (encPort port ++ encSeq args)
  | .sethwSetSyncWord port args => 0x09 :: (encPort port ++ encSeq args)
  | .ax25ControlUi => [controlUi]
  | .ax25PidNone => [pidNone]
  | .ax25SsidByte ext ssid => [ssidByte ssid ext]
  | .ax25CallByte ch => [callByte (ch.setWidth 8)]

/-! ### Words as the opcode table numbers them -/

/-- The op-select codes of R69. -/
def listedOpcodes : List Byte :=
  [0x00, 0x01, 0x10, 0x11, 0x12, 0x13, 0x20, 0x21, 0x22, 0x23, 0x30, 0x31, 0x32, 0x40, 0x41, 0x42, 0x43, 0x44, 0x45]

/-- The format of the row a table word stands for. A table word does not say its format and rows of several formats share
words: a row whose bits outside its fixed bits are 0 in the word comes before one where they are not, then the row with the
most fixed bits, then the first of the table (log entry 12). -/
def tableFormat (b : Byte) : Format :=
  if listedOpcodes.contains b then .op
  else if [fend, fesc, tfend, tfesc, escSentinel].contains b then .kissByte
  else if 1 ≤ b.toNat ∧ b.toNat ≤ 9 then .sethwSub
  else if b = pidNone then .axField .pid
  else if b = 0x60 then .axField .ssid
  else .kissCmd

/-- The low `n` bytes of `w`, the least significant first. -/
def bytesOf : (n : Nat) → (w : Nat) → List Byte
  | 0, _ => []
  | n + 1, w => BitVec.ofNat 8 w :: bytesOf n (w / 256)

/-- A table word laid out as bytes, followed by operand bytes of zeros. -/
def tableBytes (nbits w : Nat) : List Byte := bytesOf (nbits / 8) w ++ List.replicate 16 0

/-- The format of a table word. -/
def tableWordFormat (nbits w : Nat) : Format := tableFormat ((tableBytes nbits w).headD 0)

/-- The instruction the decoder reads from a table word. -/
def decodeTableWord (nbits w : Nat) : Option Instr :=
  match decode (tableWordFormat nbits w) (tableBytes nbits w) with
  | .ok i _ => some i
  | .bad _ => none

end Sys2Proof
end

