-- ==== Sys2Proof/Machine/State.lean ====
section
/-! DEFINITION. The state of the block (spec/10_state.md, spec/20_memory.md), the outputs of an operation
(spec/40_kiss_framer.md R73), the outcomes that stop a step, and the state after reset (spec/70_reset_and_hazards.md R150). -/

namespace Sys2Proof.Machine

/-- The receive state of the framer (R22). -/
inductive KfState where
  | waitFend | inFrame | escaped
deriving DecidableEq, Repr

/-- The framing errors of R134. -/
inductive KfErr where
  /-- KF_ERR 1: an append with the buffer full (R83) -/
  | overflow
  /-- KF_ERR 2: an invalid escape (R86) -/
  | badEsc
deriving DecidableEq, Repr

/-- The decode errors of AX.PARSE (R105, R134). -/
inductive ParseErr where
  | short | unterminated | fewFields
deriving DecidableEq, Repr

/-- The events of R73. -/
inductive Event where
  | frame (port : BitVec 4) (cmd : Cmd) (cmdbyte : Byte) (payload : List Byte)
  | kfErr (e : KfErr)
  | exit
deriving DecidableEq, Repr

/-- The result of AX.PARSE (R105). -/
structure ParsedFrame where
  valid : Bool
  reason : Byte
  fields : ParsedFields
deriving DecidableEq, Repr

/-- The result value of an operation (the result column of R69). -/
inductive Result where
  | none
  | u32 (v : U32)
  | u16 (v : U16)
  | bool (b : Bool)
  | bytes (s : List Byte)
  | address (callsign : List Byte) (ssid : Byte) (text : List Byte)
  | parsed (f : ParsedFrame)
  /-- CA.CHECK: transmission may start -/
  | grant
  /-- CA.CHECK: a slot wait has started -/
  | wait
deriving DecidableEq, Repr

/-- What the most recent operation handed to its caller (R13; the model's own field, log entry 3). -/
inductive Reply where
  /-- no operation yet -/
  | idle
  /-- the operation holds: no state change, no output (R13) -/
  | held
  /-- the operation completed: its events in program order and its result -/
  | done (events : List Event) (result : Result)
deriving DecidableEq, Repr

/-- kf_buf (R44): the listed cells, addresses strictly rising. An unlisted address holds no defined value (R45). -/
abbrev Memory := List Host.Cell

/-- Why the machine stops: the outcome `stuck` of R13. -/
inductive Fault where
  /-- CA.CHECK with ca_tx_active = 1 (R121, C15): raised by `execCaCheck`. Safe: the model stops. -/
  | checkWhileTransmitting
  /-- CA.TXDONE with ca_tx_active = 0 (R123): raised by `execCaTxdone`. Safe: the model stops. -/
  | txDoneWithoutGrant
deriving DecidableEq, Repr

/-- Why an operation has no meaning: the outcome `refused` of R13. -/
inductive Refusal where
  /-- an instruction whose meaning is not written: raised by `exec`. Safe. -/
  | notModelled (mnemonic : String)
  /-- BLK.RDREG of a number R38 does not list (R131, R70 (b)): raised by `execBlkRdreg`. Safe. -/
  | reservedRegister (n : Byte)
  /-- CA.SETCFG with a selector above 2 (R119): raised by `execCaSetcfg`. Safe. -/
  | badSelector (sel : Byte)
  /-- CA.SETCFG with a value wider than its register (R119): raised by `execCaSetcfg`. Safe. -/
  | valueTooWide (v : U32)
  /-- AX.ENCODEUI with more than 8 digipeaters (R107): raised by `execAxEncodeui`. Safe. -/
  | tooManyDigis (n : Nat)
  /-- a Field7 whose length is not 7 (R134): raised by `execAxUnpackaddr`. Safe. -/
  | badField7 (len : Nat)
  /-- the bytes presented are no operation (R70 (a), R134, R63; a lone AX25_FIELD byte, log entry 25): raised by `step`. Safe. -/
  | undecodable (e : DecodeError)
  /-- the operation belongs to another agent (R41): raised by `step`. Safe. -/
  | wrongAgent (a : Agent)
deriving DecidableEq, Repr

/-- The state: the registers of R38 and kf_buf, then the model's own interface fields. -/
structure State where
  -- KF unit (R22 to R25, R44)
  kfState : KfState
  kfLen : Nat
  kfBuf : Memory
  kfStat : Byte
  kfRxFrames : U32
  kfRxBytes : U32
  kfTxFrames : U32
  kfTxBytes : U32
  kfErrors : U32
  -- CRC unit (R26)
  crcReg : U16
  -- CA unit (R28 to R36)
  caPersist : Byte
  caSlot : U16
  caDeaf : U32
  caBusy : Bool
  caTxActive : Bool
  caSlotCnt : U32
  caDeafCnt : U32
  caNow : U32
  caLastRx : U32
  caLastTx : U32
  -- the model's own: outputs of the last operation, the operations still to come, the interleaving, the free-value counter
  reply : Reply
  hostIn : List Byte
  threadIn : List Byte
  radioIn : List Byte
  timerIn : List Byte
  sched : List Slot
  freeCtr : Nat
deriving DecidableEq, Repr

/-- What an operation answers. -/
abbrev Out := Host.Outcome State Fault Refusal

/-- The state after reset (R150, R151). The last seven lines are the model's own fields (log entries 2, 3 and 10). -/
def State.reset : State where
  kfState := .waitFend
  kfLen := 0
  kfBuf := []
  kfStat := 0
  kfRxFrames := 0
  kfRxBytes := 0
  kfTxFrames := 0
  kfTxBytes := 0
  kfErrors := 0
  crcReg := 0xFFFF
  caPersist := Config.params.resetPersistence
  caSlot := Config.params.resetSlotTime
  caDeaf := Config.resetDeafMs
  caBusy := false
  caTxActive := false
  caSlotCnt := 0
  caDeafCnt := 0
  caNow := 0
  caLastRx := 0
  caLastTx := 0
  reply := .idle
  hostIn := []
  threadIn := []
  radioIn := []
  timerIn := []
  sched := []
  freeCtr := 0

end Sys2Proof.Machine
end

