-- ==== Sys2Proof/Machine/Flags.lean ====
section
/-! DEFINITION. The status bits: kf_stat (spec/10_state.md R24), rx_ok (R37), CA_STATUS (R38) and the arbiter's phases
(spec/43_channel_access.md R118). Bits are numbered as R24 numbers them. -/

namespace Sys2Proof.Machine

/-- The code of a framing error (R134). -/
def KfErr.code : KfErr → BitVec 2
  | .overflow => 1
  | .badEsc => 2

/-- The reason of a decode error (R134). -/
def ParseErr.reason : ParseErr → Byte
  | .short => 1
  | .unterminated => 2
  | .fewFields => 3

/-- kf_stat with EXIT set (R77, R79). -/
def setExit (st : Byte) : Byte := st ||| 0x01

/-- kf_stat with ERR set and ERRCODE overwritten (R135). -/
def setErr (e : KfErr) (st : Byte) : Byte := (st &&& 0xE7) ||| 0x02 ||| (e.code.setWidth 8 <<< 3)

/-- kf_stat with FRAME set (R79). -/
def setFrame (st : Byte) : Byte := st ||| 0x04

/-- kf_stat with the bits a mask selects cleared (R88): bit 0 EXIT, bit 1 ERR and ERRCODE, bit 2 FRAME. -/
def clearStat (m st : Byte) : Byte :=
  let st := if m.getLsbD 0 then st &&& 0xFE else st
  let st := if m.getLsbD 1 then st &&& 0xE5 else st
  if m.getLsbD 2 then st &&& 0xFB else st

/-- EXIT (R24, bit 0). -/
def State.exitFlag (s : State) : Bool := s.kfStat.getLsbD 0

/-- ERR (R24, bit 1). -/
def State.errFlag (s : State) : Bool := s.kfStat.getLsbD 1

/-- FRAME (R24, bit 2). -/
def State.frameFlag (s : State) : Bool := s.kfStat.getLsbD 2

/-- ERRCODE (R24, bits 4:3). -/
def State.errCode (s : State) : BitVec 2 := s.kfStat.extractLsb' 3 2

/-- The reserved bits of kf_stat (R24, bits 7:5). -/
def State.statReserved (s : State) : BitVec 3 := s.kfStat.extractLsb' 5 3

/-- rx_ok (R37): receive processing may take place. -/
def State.rxOk (s : State) : Bool := !s.caTxActive && s.caDeafCnt == 0

/-- CA_STATUS (R38, R131): `rx_ok << 2 | ca_tx_active << 1 | ca_busy`. -/
def State.caStatus (s : State) : U32 :=
  ((BitVec.ofBool s.rxOk).setWidth 32 <<< 2) ||| ((BitVec.ofBool s.caTxActive).setWidth 32 <<< 1)
    ||| (BitVec.ofBool s.caBusy).setWidth 32

/-- The phase `ready` of R118: a CA.CHECK may run. -/
def State.ready (s : State) : Bool := !s.caTxActive && s.caSlotCnt == 0

/-- The phase `waiting` of R118: a CA.CHECK holds. -/
def State.waiting (s : State) : Bool := !s.caTxActive && !(s.caSlotCnt == 0)

/-- The phase `transmitting` of R118: a CA.CHECK is stuck. -/
def State.transmitting (s : State) : Bool := s.caTxActive

/-- The encoding of kf_state (R22). -/
def KfState.enc : KfState → U32
  | .waitFend => 0
  | .inFrame => 1
  | .escaped => 2

end Sys2Proof.Machine
end

