-- ==== Sys2Proof/Machine/Operands.lean ====
section
/-! DEFINITION. The functions of operands that touch no state: the AX.25 address packer, unpacker, parser and UI-frame builder
(spec/41_ax25_codec.md) and the CRC-16 (spec/42_crc16.md). -/

namespace Sys2Proof.Machine

/-! ### CRC-16 -/

/-- One of the eight iterations of R111. -/
def crcShift (c : U16) : U16 := if c.getLsbD 15 then (c <<< 1) ^^^ 0x1021 else c <<< 1

/-- `n` iterations of R111. -/
def crcShifts : Nat → U16 → U16
  | 0, c => c
  | n + 1, c => crcShifts n (crcShift c)

/-- `crc_step` of R111: fold one byte in, most significant bit first. -/
def crcStep (c : U16) (b : Byte) : U16 := crcShifts 8 (c ^^^ (b.setWidth 16 <<< 8))

/-- `CRC16` of R112. -/
def crc16 (s : List Byte) : U16 := s.foldl crcStep 0xFFFF

/-! ### Addresses -/

/-- The callsign of an address field: truncated to 6 characters, padded on the right with spaces (R102). -/
def padCallsign (cs : List Byte) : List Byte :=
  cs.take Config.callLen ++ List.replicate (Config.callLen - cs.length) 0x20

/-- `AX.PACKADDR` (R102): six callsign bytes (R65) and the SSID byte (R66), the SSID masked to 4 bits. -/
def packAddr (a : Addr) (last : Bool) : List Byte :=
  (padCallsign a.callsign).map callByte ++ [ssidByte (a.ssid.setWidth 4) last]

/-- Remove the trailing spaces and nothing else (R103). -/
def trimSpaces (ch : List Byte) : List Byte := (ch.reverse.dropWhile fun b => b == 0x20).reverse

/-- The callsign and SSID of an address field (R103): bit 0 of the callsign bytes and bits 7:5 and 0 of byte 6 are ignored. -/
def unpackAddr (f : List Byte) : Addr :=
  ⟨trimSpaces ((f.take 6).map fun (b : Byte) => b >>> (1 : Nat)), (f.getD 6 0 >>> (1 : Nat)) &&& 0x0F⟩

/-- An SSID below 16 in decimal ASCII with no leading zero (R104). -/
def decimalAscii (ssid : Byte) : List Byte :=
  if ssid.toNat < 10 then [0x30 + ssid] else [0x31, 0x30 + (ssid - 10)]

/-- The text form of an address (R104). -/
def textForm (ch : List Byte) (ssid : Byte) : List Byte :=
  if ssid = 0 then ch else ch ++ [0x2D] ++ decimalAscii ssid

/-! ### AX.PARSE -/

/-- A parse that found its fields, or the reason it did not. -/
inductive Parse where
  | ok (f : ParsedFields)
  | invalid (e : ParseErr)
deriving DecidableEq, Repr

/-- The scan of R105: at most `fuel` whole 7-byte fields, up to the first whose byte 6 has bit 0 set. It gives the fields and
whether such a field was found. -/
def scanFields : (fuel : Nat) → List Byte → List (List Byte) × Bool
  | 0, _ => ([], false)
  | fuel + 1, buf =>
    match buf with
    | b0 :: b1 :: b2 :: b3 :: b4 :: b5 :: b6 :: rest =>
      if b6.getLsbD 0 then ([[b0, b1, b2, b3, b4, b5, b6]], true)
      else
        let more := scanFields fuel rest
        ([b0, b1, b2, b3, b4, b5, b6] :: more.1, more.2)
    | _ => ([], false)

/-- The length of the header (R105): the fields, and the control and PID bytes when both are present. -/
def headerLength (n len : Nat) : Nat := 7 * n + (if 7 * n + 2 ≤ len then 2 else 0)

/-- `AX.PARSE` (R105): the checks SHORT, UNTERMINATED, FEWFIELDS in this order. -/
def parseFrame (buf : List Byte) : Parse :=
  if buf.length < 14 then .invalid .short
  else
    let scan := scanFields Config.maxAddrFields buf
    if scan.2 = false then .invalid .unterminated
    else
      match scan.1 with
      | dest :: src :: digis =>
        .ok ⟨digis.length + 2, unpackAddr dest, unpackAddr src, digis.map unpackAddr,
          headerLength (digis.length + 2) buf.length⟩
      | _ => .invalid .fewFields

/-! ### AX.ENCODEUI -/

/-- The digipeater fields in path order, the last one marked as the final address (R107). -/
def packDigis : List Addr → List Byte
  | [] => []
  | [d] => packAddr d true
  | d :: t => packAddr d false ++ packDigis t

/-- The address fields of a UI frame (R107): the source address is last only when there is no digipeater. -/
def addressHeader (dest src : Addr) (digis : List Addr) : List Byte :=
  packAddr dest false ++ packAddr src digis.isEmpty ++ packDigis digis

/-- Every byte of a UI frame before its CRC (R107). -/
def uiBody (dest src : Addr) (digis : List Addr) (p : List Byte) : List Byte :=
  addressHeader dest src digis ++ [controlUi, pidNone] ++ p

/-- The CRC as the frame carries it: the low byte, then the high byte (R49). -/
def crcBytes (c : U16) : List Byte := [c.extractLsb' 0 8, c.extractLsb' 8 8]

/-- `AX.ENCODEUI` (R107, R67) for at most 8 digipeaters. -/
def encodeUi (dest src : Addr) (digis : List Addr) (p : List Byte) : List Byte :=
  let f := uiBody dest src digis p
  f ++ crcBytes (crc16 f)

end Sys2Proof.Machine
end

