-- ==== Sys2Proof/Machine/Ops.lean ====
section
/-! DEFINITION. The named operations over memory and registers that the meanings share: kf_buf (spec/20_memory.md), the framer's
receive operation with its ONE framing-error recovery (spec/40_kiss_framer.md, spec/60_exceptions.md R135; the block has no
trap entry or return, R142, R143), register reads, reset, the arbiter's check and tick. -/

namespace Sys2Proof.Machine

/-! ### How an operation answers -/

/-- The operation completed (R13, outcome done). -/
def finish (s : State) (events : List Event) (result : Result) : Out :=
  .next { s with reply := .done events result }

/-- The operation holds (R13): no state change, no output. -/
def hold (s : State) : Out := .next { s with reply := .held }

/-! ### kf_buf -/

/-- The canonical form: addresses strictly rising. No entry equals what an unlisted address reads as, since an unlisted
address holds no defined value (R45). -/
abbrev Memory.wf (m : Memory) : Prop := m.Pairwise fun x y => x.1 < y.1

/-- `MemRead(kf_buf, i, 1)` (R12); none where the byte holds no defined value. -/
def memRead : Memory → Nat → Option Byte
  | [], _ => none
  | (k, v) :: t, i => if k = i then some v else memRead t i

/-- `MemWrite(kf_buf, i, 1, v)` (R12). -/
def memWrite : Memory → Nat → Byte → Memory
  | [], i, v => [(i, v)]
  | (k, w) :: t, i, v =>
    if i < k then (i, v) :: (k, w) :: t
    else if i = k then (i, v) :: t
    else (k, w) :: memWrite t i v

/-- Byte `i` of kf_buf: a free value where it holds no defined value (R45, log entry 9). -/
def bufByte (s : State) (i : Nat) : Byte := (memRead s.kfBuf i).getD (Config.unwrittenByte i)

/-- The payload of the frame in the buffer: bytes 1 to kf_len-1 (R79). -/
def bufPayload (s : State) : List Byte := (List.range (s.kfLen - 1)).map fun i => bufByte s (i + 1)

/-! ### The framer -/

/-- What one receive operation does: the state it leaves and the events it emits. -/
abbrev KfStep := State × List Event

/-- Every KF.RXBYTE counts its byte (R74). -/
def countRx (s : State) : State := { s with kfRxBytes := s.kfRxBytes + 1 }

/-- The idle framing state with an empty buffer (R46, R87): the bytes at and beyond kf_len hold no defined value (R45). -/
def idleFramer (s : State) : State := { s with kfState := .waitFend, kfLen := 0, kfBuf := [] }

/-- An opening FEND (R76). -/
def openFrame (s : State) : State := { s with kfState := .inFrame, kfLen := 0, kfBuf := [] }

/-- The recovery from a framing error, the same for both codes (R135). -/
def framingError (e : KfErr) (s : State) : KfStep :=
  let s := idleFramer s
  ({ s with kfErrors := s.kfErrors + 1, kfStat := setErr e s.kfStat }, [.kfErr e])

/-- `Append` (R75): the capacity check, then the write at index kf_len. -/
def append (p : Params) (v : Byte) (s : State) : KfStep :=
  if s.kfLen < p.rxCap then
    ({ s with kfBuf := memWrite s.kfBuf s.kfLen v, kfLen := s.kfLen + 1, kfState := .inFrame }, [])
  else framingError .overflow s

/-- Whether a completed frame is delivered as a FRAME event (R79): a Return frame only when RETURN_EMITS_FRAME is true. -/
def delivers (p : Params) (c : Byte) : Bool := !(c == returnByte) || p.returnEmitsFrame

/-- kf_stat after the completion of a frame with command byte `c` (R79). -/
def completeStat (p : Params) (c st : Byte) : Byte :=
  let st := if delivers p c then setFrame st else st
  if c = returnByte then setExit st else st

/-- The events of the completion of a frame with command byte `c` (R79): FRAME before EXIT. -/
def completeEvents (p : Params) (c : Byte) (payload : List Byte) : List Event :=
  (if delivers p c then [.frame (portOf c) (classify c) c payload] else []) ++ (if c = returnByte then [.exit] else [])

/-- The completion of a frame (R79). The buffer is not cleared (R46). -/
def completeFrame (p : Params) (s : State) : KfStep :=
  let c := bufByte s 0
  let payload := bufPayload s
  ({ s with kfRxFrames := s.kfRxFrames + 1, kfState := .waitFend, kfStat := completeStat p c s.kfStat },
    completeEvents p c payload)

/-- A byte in `WaitFend` (R76, R77, R78). -/
def rxWaitFend (b : Byte) (s : State) : KfStep :=
  if b = fend then (openFrame s, [])
  else if b = escSentinel then ({ s with kfStat := setExit s.kfStat }, [.exit])
  else (s, [])

/-- A byte in `InFrame` (R79 to R82). -/
def rxInFrame (p : Params) (b : Byte) (s : State) : KfStep :=
  if b = fend then (if s.kfLen = 0 then (s, []) else completeFrame p s)
  else if b = fesc then ({ s with kfState := .escaped }, [])
  else append p b s

/-- A byte in `Escaped` (R84 to R86). -/
def rxEscaped (p : Params) (b : Byte) (s : State) : KfStep :=
  if b = tfend then append p fend s
  else if b = tfesc then append p fesc s
  else framingError .badEsc s

/-- One host byte into the deframer (R74): count it, then take the one rule of the dispatch table of R58. -/
def rxByte (p : Params) (b : Byte) (s : State) : KfStep :=
  let s := countRx s
  match s.kfState with
  | .waitFend => rxWaitFend b s
  | .inFrame => rxInFrame p b s
  | .escaped => rxEscaped p b s

/-- Host bytes in arrival order (R53, R72): the events of the bytes one after the other. -/
def rxBytes (p : Params) : List Byte → State → KfStep
  | [], s => (s, [])
  | b :: t, s =>
    let one := rxByte p b s
    let more := rxBytes p t one.1
    (more.1, one.2 ++ more.2)

/-- The answer of an operation that feeds host bytes. -/
def finishRx (k : KfStep) : Out := finish k.1 k.2 .none

/-- A whole KISS frame on the host receive stream (R60, R72): its wire bytes fed one after the other (log entry 11). -/
def rxFrame (c : Byte) (payload : List Byte) (s : State) : Out := finishRx (rxBytes Config.params (wireFrame c payload) s)

/-- A SetHardware frame with sub-command `code` (R64, R96). -/
def rxSetHardware (code : Byte) (port : BitVec 4) (args : List Byte) (s : State) : Out :=
  rxFrame (commandByte port 6) (code :: args) s

/-! ### Registers -/

/-- The register numbered `n` in R38, zero-extended to 32 bits (R131). -/
def readReg (n : Byte) (s : State) : Option U32 :=
  match n.toNat with
  | 0x00 => some s.kfState.enc
  | 0x01 => some (BitVec.ofNat 32 s.kfLen)
  | 0x02 => some (s.kfStat.setWidth 32)
  | 0x03 => some s.kfRxFrames
  | 0x04 => some s.kfRxBytes
  | 0x05 => some s.kfTxFrames
  | 0x06 => some s.kfTxBytes
  | 0x07 => some s.kfErrors
  | 0x10 => some (s.crcReg.setWidth 32)
  | 0x20 => some (s.caPersist.setWidth 32)
  | 0x21 => some (s.caSlot.setWidth 32)
  | 0x22 => some s.caDeaf
  | 0x23 => some s.caStatus
  | 0x24 => some s.caSlotCnt
  | 0x25 => some s.caDeafCnt
  | 0x26 => some s.caNow
  | 0x27 => some s.caLastRx
  | 0x28 => some s.caLastTx
  | _ => none

/-- `Reset()` (R150): every register at its reset value. The interface fields are outside the block and stay (log entry 2). -/
def resetBlock (p : Params) (s : State) : State :=
  { s with
    kfState := .waitFend, kfLen := 0, kfBuf := [], kfStat := 0
    kfRxFrames := 0, kfRxBytes := 0, kfTxFrames := 0, kfTxBytes := 0, kfErrors := 0
    crcReg := 0xFFFF
    caPersist := p.resetPersistence, caSlot := p.resetSlotTime, caDeaf := Config.resetDeafMs
    caBusy := false, caTxActive := false, caSlotCnt := 0, caDeafCnt := 0
    caNow := 0, caLastRx := 0, caLastTx := 0 }

/-! ### The arbiter -/

/-- A counter that counts down and stops at 0 (R33, R34). -/
def countDown (c : U32) : U32 := if c = 0 then 0 else c - 1

/-- The slot wait a CA.CHECK loads (R121): `zext_32(ca_slot) * SLOT_UNIT_MS`. -/
def slotLoad (slot : U16) : U32 := slot.setWidth 32 * Config.slotUnitMs

/-- One millisecond (R124). -/
def tick (s : State) : State :=
  { s with caNow := s.caNow + 1, caSlotCnt := countDown s.caSlotCnt, caDeafCnt := countDown s.caDeafCnt }

/-- Whether a CA.CHECK in the ready phase grants (R121): the channel free and the draw not above the persistence. -/
def gateOpen (r : Byte) (s : State) : Bool := !s.caBusy && decide (r ≤ s.caPersist)

end Sys2Proof.Machine
end

