-- ==== Sys2Proof/Machine/Ax.lean ====
section
/-! DEFINITION. The AX family (spec/41_ax25_codec.md): pure functions of their operands, no register read or written (R27). -/

namespace Sys2Proof.Machine

/-- AX.PACKADDR (R102). -/
def execAxPackaddr (a : Addr) (last : Bool) (s : State) : Out := finish s [] (.bytes (packAddr a last))

/-- AX.UNPACKADDR (R103, R104); a Field7 has exactly 7 bytes (R134). -/
def execAxUnpackaddr (f : List Byte) (s : State) : Out :=
  if f.length = 7 then
    let a := unpackAddr f
    finish s [] (.address a.callsign a.ssid (textForm a.callsign a.ssid))
  else .refused (.badField7 f.length)

/-- AX.PARSE (R105). An invalid result's other fields are free values (R106, log entry 10). -/
def execAxParse (buf : List Byte) (s : State) : Out :=
  match parseFrame buf with
  | .ok f => finish s [] (.parsed ⟨true, 0, f⟩)
  | .invalid e =>
    finish { s with freeCtr := s.freeCtr + 1 } [] (.parsed ⟨false, e.reason, Config.freeFields s.freeCtr⟩)

/-- AX.ENCODEUI (R107): more than 8 digipeaters are refused; crc_reg is not touched. -/
def execAxEncodeui (dest src : Addr) (digis : List Addr) (p : List Byte) (s : State) : Out :=
  if digis.length ≤ Config.maxDigis then finish s [] (.bytes (encodeUi dest src digis p))
  else .refused (.tooManyDigis digis.length)

end Sys2Proof.Machine
end

