-- ==== Sys2Proof/Machine/AxField.lean ====
section
/-! DEFINITION. The AX25_FIELD rows (spec/30_encoding.md R65, R66, R68): one byte of an AX.25 frame as the AX unit places it. Like
every AX operation they touch no register (R27); the result is the byte (log entry 13). -/

namespace Sys2Proof.Machine

/-- AX25.CONTROL_UI (R68): the control byte 0x03. -/
def execAx25ControlUi (s : State) : Out := finish s [] (.bytes [controlUi])

/-- AX25.PID_NONE (R68): the PID byte 0xF0. -/
def execAx25PidNone (s : State) : Out := finish s [] (.bytes [pidNone])

/-- AX25.SSID_BYTE (R66): `0x60 | (ssid << 1) | E`. -/
def execAx25SsidByte (ext : Bool) (ssid : BitVec 4) (s : State) : Out := finish s [] (.bytes [ssidByte ssid ext])

/-- AX25.CALL_BYTE (R65): the character in bits 7:1, bit 0 clear. -/
def execAx25CallByte (ch : BitVec 7) (s : State) : Out := finish s [] (.bytes [callByte (ch.setWidth 8)])

end Sys2Proof.Machine
end

