-- ==== Sys2Proof/Machine/Blk.lean ====
section
/-! DEFINITION. The BLK family (spec/44_block.md). -/

namespace Sys2Proof.Machine

/-- BLK.RESET (R132, R150). -/
def execBlkReset (s : State) : Out := finish (resetBlock Config.params s) [] .none

/-- BLK.RDREG (R131): no side effect; a number R38 does not list is refused. -/
def execBlkRdreg (n : Byte) (s : State) : Out :=
  match readReg n s with
  | some v => finish s [] (.u32 v)
  | none => .refused (.reservedRegister n)

end Sys2Proof.Machine
end

