-- ==== Sys2Proof/Machine/Ca.lean ====
section
/-! DEFINITION. The CA family, the channel-access arbiter (spec/43_channel_access.md). -/

namespace Sys2Proof.Machine

/-- CA.SETCFG (R119): a value too wide for its register is refused, not truncated; running timers keep their counts. -/
def execCaSetcfg (sel : Byte) (v : U32) (s : State) : Out :=
  if sel = 0 then
    if v.toNat ≤ 0xFF then finish { s with caPersist := v.setWidth 8 } [] .none else .refused (.valueTooWide v)
  else if sel = 1 then
    if v.toNat ≤ 0xFFFF then finish { s with caSlot := v.setWidth 16 } [] .none else .refused (.valueTooWide v)
  else if sel = 2 then finish { s with caDeaf := v } [] .none
  else .refused (.badSelector sel)

/-- CA.BUSY (R120). -/
def execCaBusy (b : Bool) (s : State) : Out :=
  finish { s with caBusy := b, caLastRx := if b then s.caNow else s.caLastRx } [] .none

/-- CA.CHECK (R121, R141): stuck before hold, hold before the gate. -/
def execCaCheck (r : Byte) (s : State) : Out :=
  if s.caTxActive then .fault .checkWhileTransmitting
  else if s.caSlotCnt = 0 then
    if gateOpen r s then finish { s with caTxActive := true } [] .grant
    else finish { s with caSlotCnt := slotLoad s.caSlot } [] .wait
  else hold s

/-- CA.TXDONE (R123): stuck with no grant outstanding. -/
def execCaTxdone (s : State) : Out :=
  if s.caTxActive then
    finish { s with caTxActive := false, caLastTx := s.caNow, caDeafCnt := s.caDeaf } [] .none
  else .fault .txDoneWithoutGrant

/-- CA.TICK (R124). -/
def execCaTick (s : State) : Out := finish (tick s) [] .none

/-- CA.RXOK (R125). -/
def execCaRxok (s : State) : Out := finish s [] (.bool s.rxOk)

end Sys2Proof.Machine
end

