-- ==== Sys2Proof/Machine/Crc.lean ====
section
/-! DEFINITION. The CRC family (spec/42_crc16.md). -/

namespace Sys2Proof.Machine

/-- CRC.INIT (R113). -/
def execCrcInit (s : State) : Out := finish { s with crcReg := 0xFFFF } [] .none

/-- CRC.BYTE (R114): it returns the new crc_reg. -/
def execCrcByte (b : Byte) (s : State) : Out :=
  let c := crcStep s.crcReg b
  finish { s with crcReg := c } [] (.u16 c)

/-- CRC.CALC (R115): crc_reg is unchanged. -/
def execCrcCalc (buf : List Byte) (s : State) : Out := finish s [] (.u16 (crc16 buf))

end Sys2Proof.Machine
end

