-- ==== Sys2Proof/Machine/Kf.lean ====
section
/-! DEFINITION. The KF family (spec/40_kiss_framer.md). -/

namespace Sys2Proof.Machine

/-- KF.RXBYTE (R74 to R86): total over every state and every byte. -/
def execKfRxbyte (b : Byte) (s : State) : Out := finishRx (rxByte Config.params b s)

/-- KF.RXRESET (R87): kf_stat and the counters stay. -/
def execKfRxreset (s : State) : Out := finish (idleFramer s) [] .none

/-- KF.CLRSTAT (R88). -/
def execKfClrstat (m : Byte) (s : State) : Out := finish { s with kfStat := clearStat m s.kfStat } [] .none

/-- KF.ENCODE (R89): independent of the deframer; it counts the frame and the bytes it outputs. -/
def execKfEncode (c : Byte) (p : List Byte) (s : State) : Out :=
  let out := wireFrame c p
  finish { s with kfTxFrames := s.kfTxFrames + 1, kfTxBytes := s.kfTxBytes + BitVec.ofNat 32 out.length } [] (.bytes out)

end Sys2Proof.Machine
end

