-- ==== Sys2Proof/Machine/Kiss.lean ====
section
/-! DEFINITION. The KISS_CMD and KISS_BYTE rows (spec/40_kiss_framer.md R90 to R98, spec/30_encoding.md R58): a whole KISS frame of a
command class arrives on the host receive stream, or one named byte of that stream does (log entry 11). Each is the
framer's own receive operation on those bytes, so the class is decided by `classify` when the frame completes (R62, R79). -/

namespace Sys2Proof.Machine

/-- KISS.Return (R97): command byte 0xFF. -/
def execKissReturn (p : List Byte) (s : State) : Out := rxFrame returnByte p s

/-- KISS.Data (R90): delivered, nothing else. -/
def execKissData (port : BitVec 4) (p : List Byte) (s : State) : Out := rxFrame (commandByte port 0) p s

/-- KISS.TxDelay (R91): no copy of its value is kept. -/
def execKissTxDelay (port : BitVec 4) (p : List Byte) (s : State) : Out := rxFrame (commandByte port 1) p s

/-- KISS.Persistence (R92): ca_persist is not written. -/
def execKissPersistence (port : BitVec 4) (p : List Byte) (s : State) : Out := rxFrame (commandByte port 2) p s

/-- KISS.SlotTime (R93): ca_slot is not written. -/
def execKissSlotTime (port : BitVec 4) (p : List Byte) (s : State) : Out := rxFrame (commandByte port 3) p s

/-- KISS.TxTail (R94): nothing is kept. -/
def execKissTxTail (port : BitVec 4) (p : List Byte) (s : State) : Out := rxFrame (commandByte port 4) p s

/-- KISS.FullDuplex (R95): the arbiter stays half-duplex. -/
def execKissFullDuplex (port : BitVec 4) (p : List Byte) (s : State) : Out := rxFrame (commandByte port 5) p s

/-- KISS.SetHardware (R96): the payload is not interpreted. -/
def execKissSetHardware (port : BitVec 4) (p : List Byte) (s : State) : Out := rxFrame (commandByte port 6) p s

/-- KISS.Unknown, low nibble 0x7 (R98): delivered, not an error. -/
def execKissUnknown7 (port : BitVec 4) (p : List Byte) (s : State) : Out := rxFrame (commandByte port 7) p s

/-- KISS.Unknown, low nibble 0x8 to 0xF (R98): delivered, not an error. -/
def execKissUnknownHigh (port : BitVec 4) (low : BitVec 3) (p : List Byte) (s : State) : Out :=
  rxFrame (commandByte port (1#1 ++ low)) p s

/-- KISS.BYTE.FEND (R58): what it does depends on kf_state. -/
def execKissByteFend (s : State) : Out := finishRx (rxByte Config.params fend s)

/-- KISS.BYTE.FESC (R58): what it does depends on kf_state. -/
def execKissByteFesc (s : State) : Out := finishRx (rxByte Config.params fesc s)

/-- KISS.BYTE.TFEND (R58): what it does depends on kf_state. -/
def execKissByteTfend (s : State) : Out := finishRx (rxByte Config.params tfend s)

/-- KISS.BYTE.TFESC (R58): what it does depends on kf_state. -/
def execKissByteTfesc (s : State) : Out := finishRx (rxByte Config.params tfesc s)

/-- KISS.BYTE.ESC (R58): what it does depends on kf_state. -/
def execKissByteEsc (s : State) : Out := finishRx (rxByte Config.params escSentinel s)

end Sys2Proof.Machine
end

