-- ==== Sys2Proof/Machine/Sethw.lean ====
section
/-! DEFINITION. The SETHW_SUB rows (spec/30_encoding.md R64, spec/40_kiss_framer.md R96): a SetHardware frame whose payload
byte 0 is the sub-command arrives. The block delivers it unchanged and checks none of its fields (log entry 11). -/

namespace Sys2Proof.Machine

/-- SETHW.SetFrequency (R64), sub-command 0x01. -/
def execSethwSetFrequency (port : BitVec 4) (args : List Byte) (s : State) : Out := rxSetHardware 0x01 port args s

/-- SETHW.SetBandwidth (R64), sub-command 0x02. -/
def execSethwSetBandwidth (port : BitVec 4) (args : List Byte) (s : State) : Out := rxSetHardware 0x02 port args s

/-- SETHW.SetSpreading (R64), sub-command 0x03. -/
def execSethwSetSpreading (port : BitVec 4) (args : List Byte) (s : State) : Out := rxSetHardware 0x03 port args s

/-- SETHW.SetCodingRate (R64), sub-command 0x04. -/
def execSethwSetCodingRate (port : BitVec 4) (args : List Byte) (s : State) : Out := rxSetHardware 0x04 port args s

/-- SETHW.SetPower (R64), sub-command 0x05. -/
def execSethwSetPower (port : BitVec 4) (args : List Byte) (s : State) : Out := rxSetHardware 0x05 port args s

/-- SETHW.GetConfig (R64), sub-command 0x06. -/
def execSethwGetConfig (port : BitVec 4) (args : List Byte) (s : State) : Out := rxSetHardware 0x06 port args s

/-- SETHW.SaveConfig (R64), sub-command 0x07. -/
def execSethwSaveConfig (port : BitVec 4) (args : List Byte) (s : State) : Out := rxSetHardware 0x07 port args s

/-- SETHW.ResetConfig (R64), sub-command 0x08. -/
def execSethwResetConfig (port : BitVec 4) (args : List Byte) (s : State) : Out := rxSetHardware 0x08 port args s

/-- SETHW.SetSyncWord (R64), sub-command 0x09. -/
def execSethwSetSyncWord (port : BitVec 4) (args : List Byte) (s : State) : Out := rxSetHardware 0x09 port args s

end Sys2Proof.Machine
end

