-- ==== Sys2Proof/Machine/Dispatch.lean ====
section
/-! DEFINITION. The dispatch of every row of spec/opcode_table.json to its meaning. -/

namespace Sys2Proof.Machine

def exec (i : Instr) (s : State) : Host.Outcome State Fault Refusal :=
  match i with
  | .blkReset => Sys2Proof.Machine.execBlkReset s
  | .blkRdreg n => Sys2Proof.Machine.execBlkRdreg n s
  | .kfRxbyte b => Sys2Proof.Machine.execKfRxbyte b s
  | .kfRxreset => Sys2Proof.Machine.execKfRxreset s
  | .kfClrstat m => Sys2Proof.Machine.execKfClrstat m s
  | .kfEncode c p => Sys2Proof.Machine.execKfEncode c p s
  | .axPackaddr a last => Sys2Proof.Machine.execAxPackaddr a last s
  | .axUnpackaddr f => Sys2Proof.Machine.execAxUnpackaddr f s
  | .axParse buf => Sys2Proof.Machine.execAxParse buf s
  | .axEncodeui dest src digis p => Sys2Proof.Machine.execAxEncodeui dest src digis p s
  | .crcInit => Sys2Proof.Machine.execCrcInit s
  | .crcByte b => Sys2Proof.Machine.execCrcByte b s
  | .crcCalc buf => Sys2Proof.Machine.execCrcCalc buf s
  | .caSetcfg sel v => Sys2Proof.Machine.execCaSetcfg sel v s
  | .caBusy b => Sys2Proof.Machine.execCaBusy b s
  | .caCheck r => Sys2Proof.Machine.execCaCheck r s
  | .caTxdone => Sys2Proof.Machine.execCaTxdone s
  | .caTick => Sys2Proof.Machine.execCaTick s
  | .caRxok => Sys2Proof.Machine.execCaRxok s
  | .kissReturn p => Sys2Proof.Machine.execKissReturn p s
  | .kissData port p => Sys2Proof.Machine.execKissData port p s
  | .kissTxDelay port p => Sys2Proof.Machine.execKissTxDelay port p s
  | .kissPersistence port p => Sys2Proof.Machine.execKissPersistence port p s
  | .kissSlotTime port p => Sys2Proof.Machine.execKissSlotTime port p s
  | .kissTxTail port p => Sys2Proof.Machine.execKissTxTail port p s
  | .kissFullDuplex port p => Sys2Proof.Machine.execKissFullDuplex port p s
  | .kissSetHardware port p => Sys2Proof.Machine.execKissSetHardware port p s
  | .kissUnknown7 port p => Sys2Proof.Machine.execKissUnknown7 port p s
  | .kissUnknownHigh port low p => Sys2Proof.Machine.execKissUnknownHigh port low p s
  | .kissByteFend => Sys2Proof.Machine.execKissByteFend s
  | .kissByteFesc => Sys2Proof.Machine.execKissByteFesc s
  | .kissByteTfend => Sys2Proof.Machine.execKissByteTfend s
  | .kissByteTfesc => Sys2Proof.Machine.execKissByteTfesc s
  | .kissByteEsc => Sys2Proof.Machine.execKissByteEsc s
  | .sethwSetFrequency port args => Sys2Proof.Machine.execSethwSetFrequency port args s
  | .sethwSetBandwidth port args => Sys2Proof.Machine.execSethwSetBandwidth port args s
  | .sethwSetSpreading port args => Sys2Proof.Machine.execSethwSetSpreading port args s
  | .sethwSetCodingRate port args => Sys2Proof.Machine.execSethwSetCodingRate port args s
  | .sethwSetPower port args => Sys2Proof.Machine.execSethwSetPower port args s
  | .sethwGetConfig port args => Sys2Proof.Machine.execSethwGetConfig port args s
  | .sethwSaveConfig port args => Sys2Proof.Machine.execSethwSaveConfig port args s
  | .sethwResetConfig port args => Sys2Proof.Machine.execSethwResetConfig port args s
  | .sethwSetSyncWord port args => Sys2Proof.Machine.execSethwSetSyncWord port args s
  | .ax25ControlUi => Sys2Proof.Machine.execAx25ControlUi s
  | .ax25PidNone => Sys2Proof.Machine.execAx25PidNone s
  | .ax25SsidByte ext ssid => Sys2Proof.Machine.execAx25SsidByte ext ssid s
  | .ax25CallByte ch => Sys2Proof.Machine.execAx25CallByte ch s

end Sys2Proof.Machine
end

