-- ==== Sys2Proof/Machine/Fetch.lean ====
section
/-! DEFINITION. Which operation is presented next. The block has no program counter and fetches nothing (spec/10_state.md R21): each
agent presents its operations in its own order (R41, R53), and `sched` is the interleaving (spec/20_memory.md R52, log entry 2). -/

namespace Sys2Proof.Machine

/-- The operations an agent has still to issue. -/
def State.queue (s : State) (a : Agent) : List Byte :=
  match a with
  | .host => s.hostIn
  | .hostThread => s.threadIn
  | .radio => s.radioIn
  | .timer => s.timerIn

/-- Replace the operations an agent has still to issue. -/
def State.setQueue (s : State) (a : Agent) (q : List Byte) : State :=
  match a with
  | .host => { s with hostIn := q }
  | .hostThread => { s with threadIn := q }
  | .radio => { s with radioIn := q }
  | .timer => { s with timerIn := q }

/-- The agent that issues an operation (R41): CA.BUSY is the radio's, CA.TICK the timer's, every other the host's. -/
def issuer (i : Instr) : Agent :=
  match i with
  | .caBusy _ => .radio
  | .caTick => .timer
  | .blkReset | .blkRdreg _ | .kfRxbyte _ | .kfRxreset | .kfClrstat _ | .kfEncode _ _ | .axPackaddr _ _
  | .axUnpackaddr _ | .axParse _ | .axEncodeui _ _ _ _ | .crcInit | .crcByte _ | .crcCalc _ | .caSetcfg _ _
  | .caCheck _ | .caTxdone | .caRxok | .kissReturn _ | .kissData _ _ | .kissTxDelay _ _ | .kissPersistence _ _
  | .kissSlotTime _ _ | .kissTxTail _ _ | .kissFullDuplex _ _ | .kissSetHardware _ _ | .kissUnknown7 _ _
  | .kissUnknownHigh _ _ _ | .kissByteFend | .kissByteFesc | .kissByteTfend | .kissByteTfesc | .kissByteEsc
  | .sethwSetFrequency _ _ | .sethwSetBandwidth _ _ | .sethwSetSpreading _ _ | .sethwSetCodingRate _ _
  | .sethwSetPower _ _ | .sethwGetConfig _ _ | .sethwSaveConfig _ _ | .sethwResetConfig _ _ | .sethwSetSyncWord _ _
  | .ax25ControlUi | .ax25PidNone | .ax25SsidByte _ _ | .ax25CallByte _ => .host

/-- Whether an agent may issue an operation (R41); the host's CSMA thread may issue what the host may (R147). -/
def mayIssue (a : Agent) (i : Instr) : Bool := a == issuer i || (a == .hostThread && issuer i == .host)

/-- What is presented to the block. -/
inductive Fetched where
  /-- no transfer is scheduled: the block waits for the next operation (R21) -/
  | idle
  /-- the scheduled agent has nothing to issue -/
  | skip (sched : List Slot)
  /-- the agent's bytes are no operation -/
  | bad (e : DecodeError)
  /-- the agent presents an operation R41 gives another -/
  | wrong (a : Agent)
  /-- an operation, with the agent's bytes after it and the schedule after this transfer -/
  | op (a : Agent) (i : Instr) (rest : List Byte) (sched : List Slot)
deriving DecidableEq, Repr

/-- The operation the next transfer presents. -/
def fetch (s : State) : Fetched :=
  match s.sched with
  | [] => .idle
  | slot :: more =>
    if (s.queue slot.agent).isEmpty then .skip more
    else
      match decode slot.fmt (s.queue slot.agent) with
      | .bad e => .bad e
      | .ok i rest => if mayIssue slot.agent i then .op slot.agent i rest more else .wrong slot.agent

/-- What the interface does with an operation that answered a next state: a completed one leaves its agent's queue, a held
one stays at its head and is presented again at the agent's next transfer (R13, R121). -/
def retire (a : Agent) (rest : List Byte) (t : State) : State :=
  match t.reply with
  | .held => t
  | _ => t.setQueue a rest

/-- Run an operation that was fetched. -/
def runFetched (a : Agent) (i : Instr) (rest : List Byte) (s : State) : Out :=
  match exec i s with
  | .next t => .next (retire a rest t)
  | .fault f => .fault f
  | .refused r => .refused r

/-- The agent that presents a table word. -/
def wordAgent (nbits w : Nat) : Agent :=
  match decodeTableWord nbits w with
  | some i => issuer i
  | none => .host

end Sys2Proof.Machine
end

