-- ==== Sys2Proof/Machine/Step.lean ====
section
/-! DEFINITION. One step of the machine: the next transfer of the interleaving, run as one atomic operation (spec/00_scope.md R6,
spec/20_memory.md R52). -/

namespace Sys2Proof.Machine

/-- One step. -/
def step (s : State) : Host.Outcome State Fault Refusal :=
  match fetch s with
  | .idle => .next s
  | .skip more => .next { s with sched := more }
  | .bad e => .refused (.undecodable e)
  | .wrong a => .refused (.wrongAgent a)
  | .op a i rest more => runFetched a i rest { s with sched := more }

/-- The state with a table word presented by its agent at the next transfer, in the format of its row (log entry 2). -/
def State.withFetchWord (s : State) (nbits w : Nat) : State :=
  { s.setQueue (wordAgent nbits w) (tableBytes nbits w) with
    sched := [⟨wordAgent nbits w, tableWordFormat nbits w⟩] }

end Sys2Proof.Machine
end

