-- ==== Sys2Proof/Machine/Pseudo.lean ====
section
/-! DEFINITION. Lists of operations: the pseudo-operations KF.FEED and CA.CSMA (spec/30_encoding.md R72, spec/43_channel_access.md R126) and the
operation sequences of the host contract (spec/70_reset_and_hazards.md R152, R153, R155). -/

namespace Sys2Proof.Machine

/-- The events of a reply; none of a held operation. -/
def Reply.events : Reply → List Event
  | .done events _ => events
  | .idle | .held => []

/-- Operations one after the other: the reply of each and the state they leave. None when one of them is stuck or refused. -/
def runOps : List Instr → State → Option (List Reply × State)
  | [], s => some ([], s)
  | i :: more, s =>
    match exec i s with
    | .next t => (runOps more t).map fun k => (t.reply :: k.1, k.2)
    | .fault _ | .refused _ => none

/-- `KF.FEED` (R72). -/
def feedOps (bytes : List Byte) : List Instr := bytes.map .kfRxbyte

/-- The host bytes an instruction feeds to the framer, none for one that feeds none (log entry 11). -/
def hostBytes : Instr → Option (List Byte)
  | .kfRxbyte b => some [b]
  | .kissReturn p => some (wireFrame returnByte p)
  | .kissData port p => some (wireFrame (commandByte port 0) p)
  | .kissTxDelay port p => some (wireFrame (commandByte port 1) p)
  | .kissPersistence port p => some (wireFrame (commandByte port 2) p)
  | .kissSlotTime port p => some (wireFrame (commandByte port 3) p)
  | .kissTxTail port p => some (wireFrame (commandByte port 4) p)
  | .kissFullDuplex port p => some (wireFrame (commandByte port 5) p)
  | .kissSetHardware port p => some (wireFrame (commandByte port 6) p)
  | .kissUnknown7 port p => some (wireFrame (commandByte port 7) p)
  | .kissUnknownHigh port low p => some (wireFrame (commandByte port (1#1 ++ low)) p)
  | .kissByteFend => some [fend]
  | .kissByteFesc => some [fesc]
  | .kissByteTfend => some [tfend]
  | .kissByteTfesc => some [tfesc]
  | .kissByteEsc => some [escSentinel]
  | .sethwSetFrequency port args => some (wireFrame (commandByte port 6) (0x01 :: args))
  | .sethwSetBandwidth port args => some (wireFrame (commandByte port 6) (0x02 :: args))
  | .sethwSetSpreading port args => some (wireFrame (commandByte port 6) (0x03 :: args))
  | .sethwSetCodingRate port args => some (wireFrame (commandByte port 6) (0x04 :: args))
  | .sethwSetPower port args => some (wireFrame (commandByte port 6) (0x05 :: args))
  | .sethwGetConfig port args => some (wireFrame (commandByte port 6) (0x06 :: args))
  | .sethwSaveConfig port args => some (wireFrame (commandByte port 6) (0x07 :: args))
  | .sethwResetConfig port args => some (wireFrame (commandByte port 6) (0x08 :: args))
  | .sethwSetSyncWord port args => some (wireFrame (commandByte port 6) (0x09 :: args))
  | .blkReset | .blkRdreg _ | .kfRxreset | .kfClrstat _ | .kfEncode _ _ | .axPackaddr _ _ | .axUnpackaddr _
  | .axParse _ | .axEncodeui _ _ _ _ | .crcInit | .crcByte _ | .crcCalc _ | .caSetcfg _ _ | .caBusy _ | .caCheck _
  | .caTxdone | .caTick | .caRxok | .ax25ControlUi | .ax25PidNone | .ax25SsidByte _ _ | .ax25CallByte _ => none

/-- How many milliseconds elapse in a list of operations (R124). -/
def ticksIn (ops : List Instr) : Nat := ops.countP (· == .caTick)

/-- A run of CA.CSMA (R126): whether it ended with GRANT, how many WAITs it saw, how many ticks elapsed, and the state. -/
structure CsmaRun where
  granted : Bool
  waits : Nat
  ticks : Nat
  state : State
deriving DecidableEq, Repr

/-- `CA.CSMA` (R126): the host's loop of CA.CHECKs. Each round is what happens before the check and the draw of the check
(R122): any operations of the other agents, and of the other half of a host that runs the loop on a thread of its own
(R147), CA.SETCFG and BLK.RESET among them (R144). A held check is checked again in the next round. A list that ends
before a GRANT is a run not ended: the loop itself has no bound (R126, C14). None when an operation of a round or the check
itself is stuck or refused (log entry 24). -/
def csma : List (List Instr × Byte) → State → Option CsmaRun
  | [], s => some ⟨false, 0, 0, s⟩
  | (between, r) :: more, s =>
    match runOps between s with
    | none => none
    | some (_, t) =>
      match exec (.caCheck r) t with
      | .next u =>
        if u.reply = .done [] .grant then some ⟨true, 0, ticksIn between, u⟩
        else
          (csma more u).map fun k =>
            { k with
              waits := k.waits + (if u.reply = .done [] .wait then 1 else 0)
              ticks := k.ticks + ticksIn between }
      | .fault _ | .refused _ => none

/-- The boot steps (1), (2) and (5) of R152, for a persistence and a slot time of the host's choice. -/
def bootOps (persistence : Byte) (slot : U16) : List Instr :=
  [.blkReset, .caSetcfg 0 (persistence.setWidth 32), .caSetcfg 1 (slot.setWidth 32), .kfRxreset]

/-- What the host does on an exit request (R153 (1) and (4)): no KF.ENCODE, so no host byte. -/
def leaveKissOps : List Instr := [.kfRxreset, .kfClrstat 0x01]

/-- What becomes of a radio packet that the host takes up (R155). -/
inductive Received where
  /-- dropped: receive processing is suppressed (R155 (2)) -/
  | suppressed
  /-- dropped without forwarding: the parse is not valid (R155 (3)) -/
  | invalid (reason : Byte)
  /-- forwarded to the host: the parse and the bytes on the host transmit stream (R155 (4)) -/
  | forwarded (f : ParsedFrame) (wire : List Byte)
deriving DecidableEq, Repr

/-- Forward a packet to the host: KF.ENCODE of a command byte and a payload (R155 (4)). -/
def forwardPacket (f : ParsedFrame) (c : Byte) (p : List Byte) (s : State) : Option (Received × State) :=
  match exec (.kfEncode c p) s with
  | .next t =>
    match t.reply with
    | .done [] (.bytes wire) => some (.forwarded f wire, t)
    | _ => none
  | .fault _ | .refused _ => none

/-- Parse a packet, drop it when the parse is not valid, else forward it (R155 (3), (4)). -/
def parsePacket (packet : List Byte) (c : Byte) (p : List Byte) (s : State) : Option (Received × State) :=
  match exec (.axParse packet) s with
  | .next t =>
    match t.reply with
    | .done [] (.parsed f) => if f.valid then forwardPacket f c p t else some (.invalid f.reason, t)
    | _ => none
  | .fault _ | .refused _ => none

/-- The receive duty of the host (R155 (2) to (4)): CA.RXOK first, then AX.PARSE, then KF.ENCODE. The command byte `c` and the
KISS payload `p` of the forwarded packet are the host's: the source does not give them (R155 (4)). -/
def receivePacket (packet : List Byte) (c : Byte) (p : List Byte) (s : State) : Option (Received × State) :=
  match exec .caRxok s with
  | .next t =>
    match t.reply with
    | .done [] (.bool true) => parsePacket packet c p t
    | .done [] (.bool false) => some (.suppressed, t)
    | _ => none
  | .fault _ | .refused _ => none

end Sys2Proof.Machine
end

