-- ==== Sys2Proof/Safety.lean ====
section
/-! DEFINITION. What a safe run of the block is: the invariant of its reachable states, and the part of the host contract that
keeps an operation from being stuck (spec/70_reset_and_hazards.md R154 (3), (4)). -/

namespace Sys2Proof

open Sys2Proof.Machine

/-- The invariant of the block's state. -/
structure Machine.State.Inv (s : State) : Prop where
  /-- kf_buf lists exactly the bytes 0 to kf_len-1 (R23, R44, R45) -/
  buf_keys : s.kfBuf.map Prod.fst = List.range s.kfLen
  /-- kf_len is at most RXCAP (R23) -/
  len_le : s.kfLen ≤ Config.params.rxCap
  /-- the reserved bits of kf_stat read 0 (R24) -/
  stat_reserved : s.statReserved = 0
  /-- ERRCODE 3 is never written (R24) -/
  code_legal : s.errCode ≠ 3
  /-- ERR is set exactly when ERRCODE is not 0: both are set and cleared together (R24) -/
  err_iff : s.errFlag = true ↔ s.errCode ≠ 0
  /-- the slot timer is at most 655350 (R33) -/
  slot_le : s.caSlotCnt.toNat ≤ 655350
  /-- no slot wait runs during a granted transmission (R118) -/
  grant_ready : s.caTxActive = true → s.caSlotCnt = 0

/-- The transmit duties R154 (3) and (4): no CA.CHECK between a GRANT and its CA.TXDONE, no CA.TXDONE without a GRANT. -/
def hostContract (i : Instr) (s : State) : Prop :=
  (∀ r, i = .caCheck r → s.caTxActive = false) ∧ (i = .caTxdone → s.caTxActive = true)

/-- A step that neither stops nor refuses. -/
def Machine.State.goesOn (s : State) : Prop := ∃ t, step s = .next t

end Sys2Proof
end

