-- ==== Sys2Proof/Certificates/Slice0/Obligations.lean ====
section
/-! DEFINITION. The statements for the provers. Registers and bytes are written as the spec writes them; an operation's outputs
are read from `reply`, the model's own field for them (R13; log entry 3), where a hold is `.held` (log entry 4); the outcome
stuck of R13 is a fault (log entry 5), the outcome refused a refusal (log entry 14). Where the spec leaves bytes of kf_buf without a
defined value (R45), a statement leaves `kfBuf` open. `Config.params.rxCap` is RXCAP and `Config.params.returnEmitsFrame` is
RETURN_EMITS_FRAME, OPEN parameters of R7. -/

open Sys2Proof Sys2Proof.Machine

/-! ### Helpers of the statements -/

/-- The operation completes, changes no state, and gives this result and no event. -/
def Sys2Proof.givesOnly (i : Instr) (s : State) (r : Result) : Prop :=
  exec i s = .next { s with reply := .done [] r }

/-- The framer is in WaitFend, or in InFrame with an empty buffer (the start of R99). -/
def Sys2Proof.startable (s : State) : Prop := s.kfState = .waitFend ∨ (s.kfState = .inFrame ∧ s.kfLen = 0)

/-- One byte fed to the framer appends `v`: the byte counted, `v` written at index kf_len and at no other, InFrame. -/
def Sys2Proof.appends (b v : Byte) (s : State) : Prop :=
  ∃ t, exec (.kfRxbyte b) s = .next t ∧
    t = { s with
      kfState := .inFrame, kfLen := s.kfLen + 1, kfBuf := t.kfBuf, kfRxBytes := s.kfRxBytes + 1
      reply := .done [] .none } ∧
    ∀ a, memRead t.kfBuf a = if a = s.kfLen then some v else memRead s.kfBuf a

/-- One byte fed to the framer is a framing error: the byte and the error counted, WaitFend, kf_len 0, and kf_stat with ERR
set and ERRCODE overwritten. -/
def Sys2Proof.failsFraming (b : Byte) (e : KfErr) (code : BitVec 2) (s : State) : Prop :=
  ∃ t, exec (.kfRxbyte b) s = .next t ∧
    t = { s with
      kfState := .waitFend, kfLen := 0, kfBuf := t.kfBuf, kfRxBytes := s.kfRxBytes + 1, kfErrors := s.kfErrors + 1
      kfStat := t.kfStat, reply := .done [.kfErr e] .none } ∧
    t.errFlag = true ∧ t.errCode = code ∧ t.exitFlag = s.exitFlag ∧ t.frameFlag = s.frameFlag ∧
    t.statReserved = s.statReserved

/-- A whole KISS frame is delivered: exactly one FRAME event, WaitFend, kf_buf holding the frame, the framer's FRAME bit and
counters, and no other register. -/
def Sys2Proof.deliversFrame (i : Instr) (s : State) (port : BitVec 4) (cmd : Cmd) (c : Byte) (p : List Byte) : Prop :=
  ∃ t, exec i s = .next t ∧
    t = { s with
      kfState := .waitFend, kfLen := p.length + 1, kfBuf := t.kfBuf, kfStat := s.kfStat ||| 0x04
      kfRxFrames := s.kfRxFrames + 1, kfRxBytes := s.kfRxBytes + BitVec.ofNat 32 (wireFrame c p).length
      reply := .done [.frame port cmd c p] .none } ∧
    ∀ a, a ≤ p.length → memRead t.kfBuf a = (c :: p)[a]?

/-- Field `j` of an AX.25 frame: bytes 7j to 7j+6. -/
def Sys2Proof.fieldOf (buf : List Byte) (j : Nat) : List Byte := (buf.drop (7 * j)).take 7

/-- The extension bit of field `j`: bit 0 of byte 7j+6. -/
def Sys2Proof.extBit (buf : List Byte) (j : Nat) : Bool := (buf.getD (7 * j + 6) 0).getLsbD 0

/-- A check with this draw answers GRANT. -/
def Sys2Proof.grantsOn (s : State) (r : Byte) : Bool :=
  match exec (.caCheck r) s with
  | .next t => t.reply == .done [] .grant
  | .fault _ | .refused _ => false

/-- The invariant of R101 the caller should keep, in the form the round trips need (R108): 1 to 6 characters, none a space, each
below 0x80, and an SSID of at most 15. -/
def Sys2Proof.plainAddr (a : Addr) : Prop :=
  a.callsign ≠ [] ∧ a.callsign.length ≤ 6 ∧ (∀ ch ∈ a.callsign, ch ≠ 0x20 ∧ ch.toNat < 0x80) ∧ a.ssid.toNat ≤ 15

/-! ### Encoding and the step -/

/-- Decode and encode agree, for every row of the table and every operand an encoding admits (30_encoding.md; how operands are
carried is the model's choice, log entry 1). -/
def Obligations.DecodeInvertsEncode : Prop :=
  ∀ (i : Instr) (rest : List Byte), i.encodable = true → decode i.format (encode i ++ rest) = .ok i rest

/-- R70 (a): an op-select code that R69 does not list is refused by the decoder, and a step that is presented one refuses. -/
def Obligations.ReservedOpSelectIsRefused : Prop :=
  ∀ (c : Byte) (t : List Byte),
    c ∉ ([0x00, 0x01, 0x10, 0x11, 0x12, 0x13, 0x20, 0x21, 0x22, 0x23, 0x30, 0x31, 0x32, 0x40, 0x41, 0x42, 0x43, 0x44,
      0x45] : List Byte) →
    decode .op (c :: t) = .bad (.reservedOpcode c) ∧
      ∀ (s : State) (a : Agent) (more : List Slot), s.sched = ⟨a, .op⟩ :: more → s.queue a = c :: t →
        step s = .refused (.undecodable (.reservedOpcode c))

/-- A few op-select words of R69 and bytes of R58, R62, R64, R68, written out, and what they stand for. -/
def Obligations.WrittenWordsDecode : Prop :=
  decode .op [0x00] = .ok .blkReset [] ∧
  decode .op [0x10, 0xC0] = .ok (.kfRxbyte 0xC0) [] ∧
  decode .op [0x31, 0x41] = .ok (.crcByte 0x41) [] ∧
  decode .op [0x41, 0x01] = .ok (.caBusy true) [] ∧
  decode .op [0x44] = .ok .caTick [] ∧
  decode .kissByte [0xC0] = .ok .kissByteFend [] ∧
  decode .kissCmd [0x14, 0] = .ok (.kissTxTail 1 []) [] ∧
  decode .sethwSub [0x03, 0, 0] = .ok (.sethwSetSpreading 0 []) [] ∧
  decode (.axField .control) [0x03] = .ok .ax25ControlUi []

/-- A step runs the operation that the next transfer of the interleaving presents: exec at the state with the transfer taken
from the schedule, and then the operation's bytes taken from its agent unless it holds (R52, R13; log entries 2 and 4). -/
def Obligations.StepRunsTheDecodedOperation : Prop :=
  ∀ (s : State) (a : Agent) (fmt : Format) (more : List Slot) (i : Instr) (rest : List Byte),
    s.sched = ⟨a, fmt⟩ :: more → decode fmt (s.queue a) = .ok i rest → mayIssue a i = true →
    (∀ t, exec i { s with sched := more } = .next t →
      step s = .next (if t.reply = .held then t else t.setQueue a rest)) ∧
    (∀ f, exec i { s with sched := more } = .fault f → step s = .fault f) ∧
    (∀ r, exec i { s with sched := more } = .refused r → step s = .refused r)

/-- R41: the radio agent issues only CA.BUSY, the timer agent only CA.TICK, the host agent every other operation, its CSMA thread
what the host may (R147), and an operation presented by another agent is refused (the refusal is the model's, log entry
15). -/
def Obligations.EachAgentIssuesItsOwn : Prop :=
  (∀ i, mayIssue .radio i = true ↔ ∃ b, i = .caBusy b) ∧
  (∀ i, mayIssue .timer i = true ↔ i = .caTick) ∧
  (∀ i, mayIssue .host i = true ↔ (∀ b, i ≠ .caBusy b) ∧ i ≠ .caTick) ∧
  (∀ i, mayIssue .hostThread i = mayIssue .host i) ∧
  ∀ (s : State) (a : Agent) (fmt : Format) (more : List Slot) (i : Instr) (rest : List Byte),
    s.sched = ⟨a, fmt⟩ :: more → decode fmt (s.queue a) = .ok i rest → mayIssue a i = false →
    step s = .refused (.wrongAgent a)

/-- R13, R121: a CA.CHECK during a slot wait holds. It changes no register and stays at the head of its agent's operations. -/
def Obligations.HeldCheckStaysPending : Prop :=
  ∀ (s : State) (a : Agent) (more : List Slot) (r : Byte) (q : List Byte),
    a = .host ∨ a = .hostThread → s.sched = ⟨a, .op⟩ :: more → s.queue a = 0x42 :: r :: q →
    s.caTxActive = false → s.caSlotCnt ≠ 0 →
    step s = .next { s with sched := more, reply := .held }

/-! ### BLK -/

/-- R150, R132: BLK.RESET writes every register its reset value, from every state, and emits nothing. ca_persist and ca_slot
take the OPEN parameters of R7. -/
def Obligations.ResetWritesEveryRegister : Prop :=
  ∀ s : State, ∃ t, exec .blkReset s = .next t ∧
    t = { s with
      kfState := .waitFend, kfLen := 0, kfBuf := t.kfBuf, kfStat := 0
      kfRxFrames := 0, kfRxBytes := 0, kfTxFrames := 0, kfTxBytes := 0, kfErrors := 0
      crcReg := 0xFFFF
      caPersist := Config.params.resetPersistence, caSlot := Config.params.resetSlotTime, caDeaf := 2000
      caBusy := false, caTxActive := false, caSlotCnt := 0, caDeafCnt := 0, caNow := 0, caLastRx := 0, caLastTx := 0
      reply := .done [] .none } ∧
    t.rxOk = true ∧ t.caStatus = 4

/-- R151: the initial state has every register as BLK.RESET leaves it. -/
def Obligations.InitialStateIsReset : Prop :=
  ∀ s : State, ∃ t, exec .blkReset s = .next t ∧
    State.reset = { t with
      kfBuf := State.reset.kfBuf, reply := State.reset.reply, hostIn := State.reset.hostIn
      threadIn := State.reset.threadIn, radioIn := State.reset.radioIn, timerIn := State.reset.timerIn
      sched := State.reset.sched, freeCtr := State.reset.freeCtr }

/-- R131, R38: BLK.RDREG reads the register of every listed number, zero-extended, with no side effect; any other number is
refused. A kf_len of 2^32 or more, which only an RXCAP above that allows, is left open here (log entry 6). -/
def Obligations.ReadRegister : Prop :=
  ∀ s : State,
    givesOnly (.blkRdreg 0x00) s
      (.u32 (match s.kfState with | .waitFend => 0 | .inFrame => 1 | .escaped => 2)) ∧
    (∃ v : U32, givesOnly (.blkRdreg 0x01) s (.u32 v) ∧ (s.kfLen < 2 ^ 32 → v.toNat = s.kfLen)) ∧
    givesOnly (.blkRdreg 0x02) s (.u32 (s.kfStat.setWidth 32)) ∧
    givesOnly (.blkRdreg 0x03) s (.u32 s.kfRxFrames) ∧
    givesOnly (.blkRdreg 0x04) s (.u32 s.kfRxBytes) ∧
    givesOnly (.blkRdreg 0x05) s (.u32 s.kfTxFrames) ∧
    givesOnly (.blkRdreg 0x06) s (.u32 s.kfTxBytes) ∧
    givesOnly (.blkRdreg 0x07) s (.u32 s.kfErrors) ∧
    givesOnly (.blkRdreg 0x10) s (.u32 (s.crcReg.setWidth 32)) ∧
    givesOnly (.blkRdreg 0x20) s (.u32 (s.caPersist.setWidth 32)) ∧
    givesOnly (.blkRdreg 0x21) s (.u32 (s.caSlot.setWidth 32)) ∧
    givesOnly (.blkRdreg 0x22) s (.u32 s.caDeaf) ∧
    givesOnly (.blkRdreg 0x23) s
      (.u32 ((if s.caTxActive = false ∧ s.caDeafCnt = 0 then 4 else 0) + (if s.caTxActive then 2 else 0)
        + (if s.caBusy then 1 else 0))) ∧
    givesOnly (.blkRdreg 0x24) s (.u32 s.caSlotCnt) ∧
    givesOnly (.blkRdreg 0x25) s (.u32 s.caDeafCnt) ∧
    givesOnly (.blkRdreg 0x26) s (.u32 s.caNow) ∧
    givesOnly (.blkRdreg 0x27) s (.u32 s.caLastRx) ∧
    givesOnly (.blkRdreg 0x28) s (.u32 s.caLastTx) ∧
    ∀ n : Byte,
      n ∉ ([0x00, 0x01, 0x02, 0x03, 0x04, 0x05, 0x06, 0x07, 0x10, 0x20, 0x21, 0x22, 0x23, 0x24, 0x25, 0x26, 0x27,
        0x28] : List Byte) → exec (.blkRdreg n) s = .refused (.reservedRegister n)

/-! ### KF -/

/-- R76, R77, R78: a byte in WaitFend. FEND opens a frame with an empty buffer, 0x1B raises the exit request, any other byte
only counts. -/
def Obligations.ByteOutsideAFrame : Prop :=
  ∀ s : State, s.kfState = .waitFend →
    (∃ t, exec (.kfRxbyte 0xC0) s = .next t ∧
      t = { s with
        kfState := .inFrame, kfLen := 0, kfBuf := t.kfBuf, kfRxBytes := s.kfRxBytes + 1, reply := .done [] .none }) ∧
    exec (.kfRxbyte 0x1B) s = .next { s with
      kfStat := s.kfStat ||| 0x01, kfRxBytes := s.kfRxBytes + 1, reply := .done [.exit] .none } ∧
    ∀ b : Byte, b ≠ 0xC0 → b ≠ 0x1B →
      exec (.kfRxbyte b) s = .next { s with kfRxBytes := s.kfRxBytes + 1, reply := .done [] .none }

/-- R79: FEND in InFrame with a non-empty buffer completes the frame: the command byte is byte 0, the payload the rest. A Return
frame (0xFF) raises EXIT, after its FRAME event if RETURN_EMITS_FRAME is true and with none if it is false. The buffer is
not cleared. -/
def Obligations.FendCompletesTheFrame : Prop :=
  ∀ (s : State) (c : Byte) (p : List Byte), s.kfState = .inFrame → s.kfLen = p.length + 1 →
    (∀ a, a ≤ p.length → memRead s.kfBuf a = (c :: p)[a]?) →
    exec (.kfRxbyte 0xC0) s = .next { s with
      kfState := .waitFend
      kfRxBytes := s.kfRxBytes + 1, kfRxFrames := s.kfRxFrames + 1
      kfStat :=
        if c ≠ 0xFF then s.kfStat ||| 0x04
        else if Config.params.returnEmitsFrame then s.kfStat ||| 0x05 else s.kfStat ||| 0x01
      reply := .done
        (if c ≠ 0xFF then [.frame (c.extractLsb' 4 4) (classify c) c p]
        else if Config.params.returnEmitsFrame then [.frame 15 .ret 0xFF p, .exit] else [.exit]) .none }

/-- R62: the class of a command byte, by its low nibble but for the whole byte 0xFF. -/
def Obligations.ClassOfCommandByte : Prop :=
  ∀ port code : BitVec 4,
    classify (port ++ code) =
      if port = 15 ∧ code = 15 then .ret
      else if code = 0 then .data else if code = 1 then .txDelay else if code = 2 then .persistence
      else if code = 3 then .slotTime else if code = 4 then .txTail else if code = 5 then .fullDuplex
      else if code = 6 then .setHardware else .unknown

/-- R80, R81: in InFrame, FEND with an empty buffer is an idle re-sync, and FESC enters the escape state. -/
def Obligations.IdleFendAndFesc : Prop :=
  ∀ s : State, s.kfState = .inFrame →
    (s.kfLen = 0 →
      exec (.kfRxbyte 0xC0) s = .next { s with kfRxBytes := s.kfRxBytes + 1, reply := .done [] .none }) ∧
    exec (.kfRxbyte 0xDB) s = .next { s with
      kfState := .escaped, kfRxBytes := s.kfRxBytes + 1, reply := .done [] .none }

/-- R75, R82 to R85: the bytes that append (any byte but FEND and FESC in InFrame as itself, TFEND in Escaped as 0xC0, TFESC in
Escaped as 0xDB) write index kf_len while the buffer is not full; with kf_len = RXCAP they are the overflow error. -/
def Obligations.AppendOrOverflow : Prop :=
  ∀ (s : State) (b v : Byte),
    (s.kfState = .inFrame ∧ b ≠ 0xC0 ∧ b ≠ 0xDB ∧ v = b) ∨ (s.kfState = .escaped ∧ b = 0xDC ∧ v = 0xC0) ∨
      (s.kfState = .escaped ∧ b = 0xDD ∧ v = 0xDB) →
    (s.kfLen < Config.params.rxCap → appends b v s) ∧
    (s.kfLen = Config.params.rxCap → failsFraming b .overflow 1 s)

/-- R86: in Escaped, any byte but 0xDC and 0xDD is an invalid escape; the byte is consumed. -/
def Obligations.InvalidEscape : Prop :=
  ∀ (s : State) (b : Byte), s.kfState = .escaped → b ≠ 0xDC → b ≠ 0xDD → failsFraming b .badEsc 2 s

/-- R87: KF.RXRESET returns the framer to WaitFend with an empty buffer, changes nothing else, and is idempotent. -/
def Obligations.RxResetIdlesTheFramer : Prop :=
  ∀ s : State, ∃ t, exec .kfRxreset s = .next t ∧
    t = { s with kfState := .waitFend, kfLen := 0, kfBuf := t.kfBuf, reply := .done [] .none } ∧
    exec .kfRxreset t = .next t

/-- R88: KF.CLRSTAT clears EXIT with mask bit 0, ERR and ERRCODE with bit 1, FRAME with bit 2, and no other bit. -/
def Obligations.ClrStatClearsSelectedBits : Prop :=
  ∀ (s : State) (m : Byte), ∃ t, exec (.kfClrstat m) s = .next t ∧
    t = { s with kfStat := t.kfStat, reply := .done [] .none } ∧
    ∀ k, k < 8 → t.kfStat.getLsbD k =
      if (k = 0 ∧ m.getLsbD 0) ∨ ((k = 1 ∨ k = 3 ∨ k = 4) ∧ m.getLsbD 1) ∨ (k = 2 ∧ m.getLsbD 2) then false
      else s.kfStat.getLsbD k

/-- R89, R59: KF.ENCODE outputs FEND, the escaped command byte, the escaped payload, FEND; it counts the frame and the bytes
and touches nothing of the deframer. -/
def Obligations.EncodeBuildsTheWireFrame : Prop :=
  (esc 0xC0 = [0xDB, 0xDC] ∧ esc 0xDB = [0xDB, 0xDD] ∧ ∀ b : Byte, b ≠ 0xC0 → b ≠ 0xDB → esc b = [b]) ∧
  ∀ (s : State) (c : Byte) (p : List Byte),
    exec (.kfEncode c p) s = .next { s with
      kfTxFrames := s.kfTxFrames + 1
      kfTxBytes := s.kfTxBytes + BitVec.ofNat 32 ([0xC0] ++ esc c ++ (p.map esc).flatten ++ [0xC0]).length
      reply := .done [] (.bytes ([0xC0] ++ esc c ++ (p.map esc).flatten ++ [0xC0])) }

/-- R100: the length of KF.ENCODE's output; the spec marks it as derived from R59, R89 and R99. -/
def Obligations.EncodedLength : Prop :=
  ∀ (s : State) (c : Byte) (p : List Byte), ∃ t out, exec (.kfEncode c p) s = .next t ∧ t.reply = .done [] (.bytes out) ∧
    out.length = 2 + (if c = 0xC0 ∨ c = 0xDB then 2 else 1) + p.length + p.countP (fun b => b == 0xC0 || b == 0xDB)

/-- R99: what KF.ENCODE outputs, fed to the framer from WaitFend or an empty InFrame, emits exactly one event, the frame that
was encoded; the framer ends in WaitFend with ERR unchanged. The spec marks it as derived. -/
def Obligations.FedEncodingRoundTrips : Prop :=
  ∀ (s : State) (c : Byte) (p : List Byte), startable s → p.length + 1 ≤ Config.params.rxCap → c ≠ 0xFF →
    ∃ out t rs u, exec (.kfEncode c p) s = .next t ∧ t.reply = .done [] (.bytes out) ∧
      runOps (feedOps out) t = some (rs, u) ∧
      rs.flatMap Reply.events = [.frame (c.extractLsb' 4 4) (classify c) c p] ∧
      u.kfState = .waitFend ∧ u.errFlag = s.errFlag

/-- R136: after a framing error the framer is in WaitFend. Whatever bytes but FEND are left of the aborted frame, its closing
FEND and then a frame with its own opening FEND deliver that frame; each 0x1B among the left-over bytes raises EXIT. The
spec marks it as derived. -/
def Obligations.NextFrameSurvivesAnError : Prop :=
  ∀ (s : State) (left : List Byte) (c : Byte) (p : List Byte), s.kfState = .waitFend → (0xC0 : Byte) ∉ left →
    p.length + 1 ≤ Config.params.rxCap → c ≠ 0xFF →
    ∃ rs u, runOps (feedOps (left ++ [0xC0] ++ wireFrame c p)) s = some (rs, u) ∧
      rs.flatMap Reply.events =
        List.replicate (left.count 0x1B) .exit ++ [.frame (c.extractLsb' 4 4) (classify c) c p] ∧
      u.kfState = .waitFend ∧ u.errFlag = s.errFlag

/-! ### KISS frames and stream bytes -/

/-- R90 to R96, R98: a frame of each command class but Return, on every port, is delivered and changes no register outside the
framer's receive registers. The frame is the model's whole-frame form of the row (log entry 11). -/
def Obligations.CommandFramesAreDelivered : Prop :=
  ∀ (s : State) (port : BitVec 4) (p : List Byte), startable s → p.length + 1 ≤ Config.params.rxCap →
    deliversFrame (.kissData port p) s port .data (port ++ 0#4) p ∧
    deliversFrame (.kissTxDelay port p) s port .txDelay (port ++ 1#4) p ∧
    deliversFrame (.kissPersistence port p) s port .persistence (port ++ 2#4) p ∧
    deliversFrame (.kissSlotTime port p) s port .slotTime (port ++ 3#4) p ∧
    deliversFrame (.kissTxTail port p) s port .txTail (port ++ 4#4) p ∧
    deliversFrame (.kissFullDuplex port p) s port .fullDuplex (port ++ 5#4) p ∧
    deliversFrame (.kissSetHardware port p) s port .setHardware (port ++ 6#4) p ∧
    deliversFrame (.kissUnknown7 port p) s port .unknown (port ++ 7#4) p ∧
    ∀ low : BitVec 3, ¬(port = 15 ∧ low = 7) →
      deliversFrame (.kissUnknownHigh port low p) s port .unknown (port ++ (1#1 ++ low : BitVec 4)) p

/-- R97: a Return frame raises EXIT, and is delivered as a FRAME event, before EXIT, only when RETURN_EMITS_FRAME is true. -/
def Obligations.ReturnFrameRaisesExit : Prop :=
  ∀ (s : State) (p : List Byte), startable s → p.length + 1 ≤ Config.params.rxCap →
    ∃ t, exec (.kissReturn p) s = .next t ∧
      t = { s with
        kfState := .waitFend, kfLen := p.length + 1, kfBuf := t.kfBuf
        kfStat := s.kfStat ||| (if Config.params.returnEmitsFrame then 0x05 else 0x01)
        kfRxFrames := s.kfRxFrames + 1, kfRxBytes := s.kfRxBytes + BitVec.ofNat 32 (wireFrame 0xFF p).length
        reply := .done
          ((if Config.params.returnEmitsFrame then [.frame 15 .ret 0xFF p] else []) ++ [.exit]) .none } ∧
      ∀ a, a ≤ p.length → memRead t.kfBuf a = (0xFF :: p)[a]?

/-- R64, R96, R70 (f): a SetHardware frame with each listed sub-command, and with any other code, is delivered unchanged, the code
as payload byte 0 and the arguments after it, and nothing else happens. -/
def Obligations.SubCommandsPassThrough : Prop :=
  ∀ (s : State) (port : BitVec 4) (args : List Byte), startable s → args.length + 2 ≤ Config.params.rxCap →
    deliversFrame (.sethwSetFrequency port args) s port .setHardware (port ++ 6#4) (0x01 :: args) ∧
    deliversFrame (.sethwSetBandwidth port args) s port .setHardware (port ++ 6#4) (0x02 :: args) ∧
    deliversFrame (.sethwSetSpreading port args) s port .setHardware (port ++ 6#4) (0x03 :: args) ∧
    deliversFrame (.sethwSetCodingRate port args) s port .setHardware (port ++ 6#4) (0x04 :: args) ∧
    deliversFrame (.sethwSetPower port args) s port .setHardware (port ++ 6#4) (0x05 :: args) ∧
    deliversFrame (.sethwGetConfig port args) s port .setHardware (port ++ 6#4) (0x06 :: args) ∧
    deliversFrame (.sethwSaveConfig port args) s port .setHardware (port ++ 6#4) (0x07 :: args) ∧
    deliversFrame (.sethwResetConfig port args) s port .setHardware (port ++ 6#4) (0x08 :: args) ∧
    deliversFrame (.sethwSetSyncWord port args) s port .setHardware (port ++ 6#4) (0x09 :: args) ∧
    ∀ code : Byte, code = 0 ∨ 9 < code.toNat →
      (∀ rest, decode .sethwSub (code :: (encPort port ++ encSeq args) ++ rest) =
        .ok (.kissSetHardware port (code :: args)) rest) ∧
      deliversFrame (.kissSetHardware port (code :: args)) s port .setHardware (port ++ 6#4) (code :: args)

/-- R72, R74: every row that feeds host bytes completes from every state, and does what its bytes do as one KF.RXBYTE each:
the same state, and the events of the bytes one after the other (log entry 11). -/
def Obligations.FrameRowsAreFeeds : Prop :=
  ∀ (i : Instr) (s : State) (bytes : List Byte), hostBytes i = some bytes →
    ∃ rs t, runOps (feedOps bytes) s = some (rs, t) ∧
      exec i s = .next { t with reply := .done (rs.flatMap Reply.events) .none }

/-- R58: the five named bytes of the host receive stream complete in every framer state, each as the KF.RXBYTE of its byte: FEND,
FESC, TFEND, TFESC and ESC (that a row is its byte received is the model's reading, log entry 11). -/
def Obligations.NamedBytesAreReceived : Prop :=
  ∀ s : State,
    (∃ t, exec .kissByteFend s = .next t ∧ exec (.kfRxbyte 0xC0) s = .next t) ∧
    (∃ t, exec .kissByteFesc s = .next t ∧ exec (.kfRxbyte 0xDB) s = .next t) ∧
    (∃ t, exec .kissByteTfend s = .next t ∧ exec (.kfRxbyte 0xDC) s = .next t) ∧
    (∃ t, exec .kissByteTfesc s = .next t ∧ exec (.kfRxbyte 0xDD) s = .next t) ∧
    (∃ t, exec .kissByteEsc s = .next t ∧ exec (.kfRxbyte 0x1B) s = .next t)

/-- R22 to R25 and R74 to R86 for a host byte, R31, R33 to R36, R120 and R124 for CA.TICK and CA.BUSY: an operation of the radio or the timer agent and a host byte give the same registers and the same events in either
order, so a frame fed whole loses no interleaving that the block can show (log entry 11). -/
def Obligations.HostBytesCommuteWithOtherAgents : Prop :=
  ∀ (s : State) (b : Byte) (i : Instr), i = .caTick ∨ (∃ x, i = .caBusy x) →
    ∃ r1 r2 q1 q2 t u, runOps [i, .kfRxbyte b] s = some ([r1, r2], t) ∧ runOps [.kfRxbyte b, i] s = some ([q1, q2], u) ∧
      r1 = q2 ∧ r2 = q1 ∧ { t with reply := .idle } = { u with reply := .idle }

/-! ### AX -/

/-- R65, R66, R68: the bytes of the AX25_FIELD rows; no register changes (that the row answers with its byte is the model's
choice, log entry 13). -/
def Obligations.AxFieldBytes : Prop :=
  ∀ (s : State) (ext : Bool) (ssid : BitVec 4) (ch : BitVec 7),
    givesOnly .ax25ControlUi s (.bytes [0x03]) ∧
    givesOnly .ax25PidNone s (.bytes [0xF0]) ∧
    givesOnly (.ax25SsidByte ext ssid) s (.bytes [BitVec.ofNat 8 (0x60 + 2 * ssid.toNat + ext.toNat)]) ∧
    givesOnly (.ax25CallByte ch) s (.bytes [BitVec.ofNat 8 (2 * ch.toNat)])

/-- R102, R65: AX.PACKADDR. The callsign is cut to 6 characters or padded with spaces, each character shifted left by one; the
SSID is masked to 4 bits. `packAddr` is that field. -/
def Obligations.PackAddress : Prop :=
  ∀ (s : State) (a : Addr) (last : Bool),
    packAddr a last = (List.range 6).map (fun k => (a.callsign.getD k 0x20 : Byte) <<< (1 : Nat)) ++
        [0x60 ||| ((a.ssid &&& 0x0F) <<< (1 : Nat)) ||| (if last then 1 else 0)] ∧
      givesOnly (.axPackaddr a last) s (.bytes (packAddr a last))

/-- R103, R104: AX.UNPACKADDR. The six characters are shifted right by one and only trailing spaces are removed; the text form
omits the SSID when it is 0. A list that is no Field7 is refused (R134). `unpackAddr` is the callsign and the SSID. -/
def Obligations.UnpackAddress : Prop :=
  ∀ (s : State) (f : List Byte),
    (f.length = 7 →
      ∃ ch k ssid, givesOnly (.axUnpackaddr f) s
          (.address ch ssid
            (if ssid = 0 then ch
            else ch ++ [0x2D] ++ (if ssid.toNat < 10 then [0x30 + ssid] else [0x31, 0x26 + ssid]))) ∧
        ch ++ List.replicate k 0x20 = (f.take 6).map (fun (b : Byte) => b >>> (1 : Nat)) ∧ ch.getLast? ≠ some 0x20 ∧
        ssid = (f.getD 6 0 >>> (1 : Nat)) &&& 0x0F ∧ unpackAddr f = ⟨ch, ssid⟩) ∧
    (f.length ≠ 7 → exec (.axUnpackaddr f) s = .refused (.badField7 f.length))

/-- R108: an address of 1 to 6 characters, none a space and each below 0x80, with an SSID up to 15, comes back from its packed
field, for either value of the extension bit. The spec marks it as derived. -/
def Obligations.AddressRoundTrips : Prop :=
  ∀ (s : State) (a : Addr) (last : Bool), plainAddr a →
    ∃ f text t u, exec (.axPackaddr a last) s = .next t ∧ t.reply = .done [] (.bytes f) ∧
      exec (.axUnpackaddr f) t = .next u ∧ u.reply = .done [] (.address a.callsign a.ssid text) ∧
      text = if a.ssid = 0 then a.callsign else a.callsign ++ [0x2D] ++ decimalAscii a.ssid

/-- R105, R106: AX.PARSE on every buffer: SHORT below 14 bytes, UNTERMINATED when no whole field among the first ten has its
extension bit, FEWFIELDS when the first has it, else the fields up to the first that has it. No register changes; the other
fields of an invalid result are whatever they are. -/
def Obligations.ParseVerdict : Prop :=
  ∀ (s : State) (buf : List Byte),
    (buf.length < 14 →
      ∃ t f, exec (.axParse buf) s = .next t ∧
        t = { s with freeCtr := t.freeCtr, reply := .done [] (.parsed ⟨false, 1, f⟩) }) ∧
    (14 ≤ buf.length → (∀ j, j < 10 → 7 * (j + 1) ≤ buf.length → extBit buf j = false) →
      ∃ t f, exec (.axParse buf) s = .next t ∧
        t = { s with freeCtr := t.freeCtr, reply := .done [] (.parsed ⟨false, 2, f⟩) }) ∧
    (14 ≤ buf.length → extBit buf 0 = true →
      ∃ t f, exec (.axParse buf) s = .next t ∧
        t = { s with freeCtr := t.freeCtr, reply := .done [] (.parsed ⟨false, 3, f⟩) }) ∧
    (∀ j, 1 ≤ j → j < 10 → 7 * (j + 1) ≤ buf.length → extBit buf j = true → (∀ k, k < j → extBit buf k = false) →
      givesOnly (.axParse buf) s
        (.parsed ⟨true, 0, ⟨j + 1, unpackAddr (fieldOf buf 0), unpackAddr (fieldOf buf 1),
          (List.range (j - 1)).map (fun k => unpackAddr (fieldOf buf (k + 2))),
          7 * (j + 1) + (if 7 * (j + 1) + 2 ≤ buf.length then 2 else 0)⟩⟩))

/-- R107: AX.ENCODEUI: the address fields in order, the last one marked, control, PID, payload, and the CRC of all of it with the
low byte first; more than 8 digipeaters are refused. -/
def Obligations.EncodeUiFrame : Prop :=
  ∀ (s : State) (dest src : Addr) (digis : List Addr) (p : List Byte),
    (digis.length ≤ 8 →
      ∃ body, body = packAddr dest false ++ packAddr src (digis.length == 0) ++
          (List.range digis.length).flatMap (fun j => packAddr (digis.getD j default) (j + 1 == digis.length)) ++
          [0x03, 0xF0] ++ p ∧
        givesOnly (.axEncodeui dest src digis p) s
          (.bytes (body ++ [(crc16 body).extractLsb' 0 8, (crc16 body).extractLsb' 8 8]))) ∧
    (8 < digis.length → exec (.axEncodeui dest src digis p) s = .refused (.tooManyDigis digis.length))

/-- R67, R109: the length of a UI frame, and its extension bits: set on field 1 + k only. The spec marks R109 as derived. -/
def Obligations.UiFrameShape : Prop :=
  ∀ (s : State) (dest src : Addr) (digis : List Addr) (p : List Byte), digis.length ≤ 8 →
    ∃ t frame, exec (.axEncodeui dest src digis p) s = .next t ∧ t.reply = .done [] (.bytes frame) ∧
      frame.length = 7 * (2 + digis.length) + 2 + p.length + 2 ∧
      ∀ j, j < 2 + digis.length → extBit frame j = (j == 1 + digis.length)

/-- R110: AX.PARSE of what AX.ENCODEUI builds gives the same addresses back, for addresses that meet R101's invariant. The spec
marks it as derived. -/
def Obligations.UiFrameParsesBack : Prop :=
  ∀ (s : State) (dest src : Addr) (digis : List Addr) (p : List Byte), plainAddr dest → plainAddr src →
    (∀ d ∈ digis, plainAddr d) → digis.length ≤ 8 →
    ∃ t frame, exec (.axEncodeui dest src digis p) s = .next t ∧ t.reply = .done [] (.bytes frame) ∧
      givesOnly (.axParse frame) t
        (.parsed ⟨true, 0, ⟨2 + digis.length, dest, src, digis, 7 * (2 + digis.length) + 2⟩⟩)

/-! ### CRC -/

/-- R111, R112: one byte is folded in by an XOR into the top 8 bits and eight shifts, each with an XOR of 0x1021 when the top
bit was set; CRC16 starts from 0xFFFF and folds every byte in order. -/
def Obligations.CrcFunction : Prop :=
  (∀ (c : U16) (b : Byte),
    crcStep c b = (fun x : U16 => if x.getLsbD 15 then (x <<< 1) ^^^ 0x1021 else x <<< 1)^[8] (c ^^^ (b.setWidth 16 <<< 8))) ∧
  crc16 [] = 0xFFFF ∧ ∀ (x : List Byte) (b : Byte), crc16 (x ++ [b]) = crcStep (crc16 x) b

/-- R113, R114, R115: the CRC operations. -/
def Obligations.CrcOperations : Prop :=
  ∀ (s : State) (b : Byte) (buf : List Byte),
    exec .crcInit s = .next { s with crcReg := 0xFFFF, reply := .done [] .none } ∧
    exec (.crcByte b) s = .next { s with
      crcReg := crcStep s.crcReg b, reply := .done [] (.u16 (crcStep s.crcReg b)) } ∧
    givesOnly (.crcCalc buf) s (.u16 (crc16 buf))

/-- R117, R116: CRC.INIT and one CRC.BYTE for each byte leave in crc_reg what CRC.CALC of the list gives; the check values of the
empty list and of "123456789". The spec marks both rules as derived. -/
def Obligations.CrcRegisterAgrees : Prop :=
  (∀ (s : State) (buf : List Byte), ∃ rs t, runOps (.crcInit :: buf.map .crcByte) s = some (rs, t) ∧
    t = { s with crcReg := t.crcReg, reply := t.reply } ∧ givesOnly (.crcCalc buf) t (.u16 t.crcReg)) ∧
  crc16 [] = 0xFFFF ∧ crc16 [0x31, 0x32, 0x33, 0x34, 0x35, 0x36, 0x37, 0x38, 0x39] = 0x29B1

/-! ### CA -/

/-- R119: CA.SETCFG writes the selected register; a selector above 2 or a value too wide is refused, not truncated. -/
def Obligations.SetConfiguration : Prop :=
  ∀ (s : State) (v : U32),
    (v.toNat ≤ 0xFF → exec (.caSetcfg 0 v) s = .next { s with caPersist := v.setWidth 8, reply := .done [] .none }) ∧
    (v.toNat ≤ 0xFFFF → exec (.caSetcfg 1 v) s = .next { s with caSlot := v.setWidth 16, reply := .done [] .none }) ∧
    exec (.caSetcfg 2 v) s = .next { s with caDeaf := v, reply := .done [] .none } ∧
    (0xFF < v.toNat → exec (.caSetcfg 0 v) s = .refused (.valueTooWide v)) ∧
    (0xFFFF < v.toNat → exec (.caSetcfg 1 v) s = .refused (.valueTooWide v)) ∧
    ∀ sel : Byte, 2 < sel.toNat → exec (.caSetcfg sel v) s = .refused (.badSelector sel)

/-- R120: CA.BUSY writes ca_busy and stamps ca_last_rx when the channel is busy. -/
def Obligations.BusyReport : Prop :=
  ∀ s : State,
    exec (.caBusy true) s = .next { s with caBusy := true, caLastRx := s.caNow, reply := .done [] .none } ∧
    exec (.caBusy false) s = .next { s with caBusy := false, reply := .done [] .none }

/-- R121: CA.CHECK is stuck during a granted transmission, holds during a slot wait, and else grants exactly when the channel is
free and the draw is at most ca_persist; otherwise it loads the slot timer. -/
def Obligations.GateCheck : Prop :=
  ∀ (s : State) (r : Byte),
    (s.caTxActive = true → exec (.caCheck r) s = .fault .checkWhileTransmitting) ∧
    (s.caTxActive = false → s.caSlotCnt ≠ 0 → exec (.caCheck r) s = .next { s with reply := .held }) ∧
    (s.caTxActive = false → s.caSlotCnt = 0 → s.caBusy = false → r.toNat ≤ s.caPersist.toNat →
      exec (.caCheck r) s = .next { s with caTxActive := true, reply := .done [] .grant }) ∧
    (s.caTxActive = false → s.caSlotCnt = 0 → s.caBusy = true ∨ s.caPersist.toNat < r.toNat →
      exec (.caCheck r) s = .next { s with
        caSlotCnt := BitVec.ofNat 32 (s.caSlot.toNat * 10), reply := .done [] .wait })

/-- R123: CA.TXDONE ends the transmission, stamps ca_last_tx and loads the deaf timer; with no grant outstanding it is stuck. -/
def Obligations.TransmissionDone : Prop :=
  ∀ s : State,
    (s.caTxActive = true → exec .caTxdone s = .next { s with
      caTxActive := false, caLastTx := s.caNow, caDeafCnt := s.caDeaf, reply := .done [] .none }) ∧
    (s.caTxActive = false → exec .caTxdone s = .fault .txDoneWithoutGrant)

/-- R124: CA.TICK advances the clock, which wraps, and counts both timers down to 0 and no further. -/
def Obligations.TickAdvancesTheTimers : Prop :=
  ∀ s : State, ∃ t, exec .caTick s = .next t ∧
    t = { s with caNow := t.caNow, caSlotCnt := t.caSlotCnt, caDeafCnt := t.caDeafCnt, reply := .done [] .none } ∧
    t.caNow.toNat = (s.caNow.toNat + 1) % 2 ^ 32 ∧ t.caSlotCnt.toNat = s.caSlotCnt.toNat - 1 ∧
    t.caDeafCnt.toNat = s.caDeafCnt.toNat - 1

/-- R125: CA.RXOK answers whether no transmission and no deaf period is running, and changes nothing. -/
def Obligations.ReceiveGate : Prop :=
  ∀ s : State, givesOnly .caRxok s (.bool (decide (s.caTxActive = false ∧ s.caDeafCnt = 0)))

/-- R130: with the channel free, the first check grants for exactly ca_persist + 1 of the 256 draws, those up to ca_persist. The
spec marks it as derived. -/
def Obligations.GateBound : Prop :=
  ∀ s : State, s.caTxActive = false → s.caSlotCnt = 0 → s.caBusy = false →
    (∀ r : Byte, grantsOn s r = true ↔ r.toNat ≤ s.caPersist.toNat) ∧
    (List.range 256).countP (fun n => grantsOn s (BitVec.ofNat 8 n)) = s.caPersist.toNat + 1

/-- R128: over every instruction, a transmission starts only by a CA.CHECK with the channel free, ends only by CA.TXDONE or
BLK.RESET, and while it is active rx_ok is 0. The spec marks it as derived. -/
def Obligations.HalfDuplex : Prop :=
  (∀ (i : Instr) (s t : State), exec i s = .next t → s.caTxActive = false → t.caTxActive = true →
    s.caBusy = false ∧ ∃ r, i = .caCheck r) ∧
  (∀ (i : Instr) (s t : State), exec i s = .next t → s.caTxActive = true → t.caTxActive = false →
    i = .caTxdone ∨ i = .blkReset) ∧
  ∀ s : State, s.caTxActive = true → s.rxOk = false

/-- R129: after CA.TXDONE, through any operations but another CA.TXDONE or BLK.RESET, rx_ok is 0 until ca_deaf ticks have been
applied and 1 from then on, unless a new grant is active. The spec marks it as derived. -/
def Obligations.DeafPeriodIsExact : Prop :=
  ∀ s t : State, exec .caTxdone s = .next t →
    ∀ (ops : List Instr) (rs : List Reply) (u : State), .caTxdone ∉ ops → .blkReset ∉ ops →
      runOps ops t = some (rs, u) → (u.rxOk = true ↔ u.caTxActive = false ∧ s.caDeaf.toNat ≤ ticksIn ops)

/-- R163, R121, R119: after a WAIT, through any operations but another CA.CHECK and BLK.RESET, writes of the configuration among
them, a check holds exactly while fewer than ca_slot * 10 ticks have been applied, with the ca_slot of the WAIT. -/
def Obligations.SlotWaitIsExact : Prop :=
  ∀ (s t : State) (r : Byte), exec (.caCheck r) s = .next t → t.reply = .done [] .wait →
    ∀ (ops : List Instr) (rs : List Reply) (u : State), (∀ r, .caCheck r ∉ ops) → .blkReset ∉ ops →
      runOps ops t = some (rs, u) →
      ∀ q : Byte, exec (.caCheck q) u = .next { u with reply := .held } ↔ ticksIn ops < s.caSlot.toNat * 10

/-- R163, R126: a CA.CSMA that ends ends in a grant with the channel free, and after w WAITs it has waited at least w * m * 10
ticks, where m is at most ca_slot at the start and at most every slot time written on the way (m is ca_slot when none is
written). The operations between the checks are any but BLK.RESET. The loop as a list of rounds is log entry 24. -/
def Obligations.CsmaWaitsEverySlot : Prop :=
  ∀ (rounds : List (List Instr × Byte)) (s : State) (k : CsmaRun), csma rounds s = some k → k.granted = true →
    k.state.caTxActive = true ∧ k.state.caBusy = false ∧
    ∀ m : Nat, m ≤ s.caSlot.toNat →
      (∀ round ∈ rounds, .blkReset ∉ round.1 ∧ ∀ v, .caSetcfg 1 v ∈ round.1 → m ≤ v.toNat) →
      k.waits * (m * 10) ≤ k.ticks

/-! ### The whole block -/

/-- The invariant holds after reset. -/
def Obligations.ResetMeetsTheInvariant : Prop := State.reset.Inv

/-- Every step keeps the invariant: kf_buf lists exactly the valid bytes, kf_len is at most RXCAP (R23, R44, R45), kf_stat is legal
(R24), the slot timer is in range (R33), and no slot wait runs during a transmission (R118). -/
def Obligations.StepKeepsTheInvariant : Prop :=
  ∀ s t : State, s.Inv → step s = .next t → t.Inv

/-- R22, R23, R44, R26: only host bytes, KF.RXRESET and BLK.RESET write kf_state, kf_len and kf_buf; only CRC.INIT, CRC.BYTE and
BLK.RESET write crc_reg. -/
def Obligations.FramerAndCrcWriters : Prop :=
  ∀ (i : Instr) (s t : State), exec i s = .next t → i ≠ .blkReset →
    (hostBytes i = none → i ≠ .kfRxreset → t.kfState = s.kfState ∧ t.kfLen = s.kfLen ∧ t.kfBuf = s.kfBuf) ∧
    (i ≠ .crcInit → (∀ b, i ≠ .crcByte b) → t.crcReg = s.crcReg)

/-- R24: a status bit is set only by host bytes; EXIT, ERR and FRAME are cleared only by KF.CLRSTAT with their mask bit and by
BLK.RESET; ERRCODE changes only by a framing error, by KF.CLRSTAT with mask bit 1, which clears it, and by BLK.RESET; the
reserved bits change only by BLK.RESET. -/
def Obligations.StatusBitsAreSticky : Prop :=
  ∀ (i : Instr) (s t : State), exec i s = .next t →
    (hostBytes i = none → ∀ k, t.kfStat.getLsbD k = true → s.kfStat.getLsbD k = true) ∧
    (∀ k, k < 3 → s.kfStat.getLsbD k = true → t.kfStat.getLsbD k = false →
      i = .blkReset ∨ ∃ m, i = .kfClrstat m ∧ m.getLsbD k = true) ∧
    (t.errCode ≠ s.errCode →
      i = .blkReset ∨ (∃ m, i = .kfClrstat m ∧ m.getLsbD 1 = true ∧ t.errCode = 0) ∨
        ∃ bytes e, hostBytes i = some bytes ∧ .kfErr e ∈ t.reply.events) ∧
    (t.statReserved ≠ s.statReserved → i = .blkReset)

/-- R25: the counters over every instruction but BLK.RESET: each host byte counts once, each KF_ERR event counts once, and the
transmit counters move only with KF.ENCODE. -/
def Obligations.CountersCount : Prop :=
  ∀ (i : Instr) (s t : State), exec i s = .next t → i ≠ .blkReset →
    t.kfRxBytes = s.kfRxBytes + BitVec.ofNat 32 ((hostBytes i).getD []).length ∧
    t.kfErrors = s.kfErrors +
      BitVec.ofNat 32 (t.reply.events.countP fun e => e == .kfErr .overflow || e == .kfErr .badEsc) ∧
    ((∀ c p, i ≠ .kfEncode c p) → t.kfTxFrames = s.kfTxFrames ∧ t.kfTxBytes = s.kfTxBytes)

/-- R28 to R36: each register of the arbiter is written only by the operations the spec names. So no KISS frame, whatever its
command, changes one (R92 to R95). -/
def Obligations.ArbiterWriters : Prop :=
  ∀ (i : Instr) (s t : State), exec i s = .next t → i ≠ .blkReset →
    (t.caPersist ≠ s.caPersist → ∃ v, i = .caSetcfg 0 v) ∧
    (t.caSlot ≠ s.caSlot → ∃ v, i = .caSetcfg 1 v) ∧
    (t.caDeaf ≠ s.caDeaf → ∃ v, i = .caSetcfg 2 v) ∧
    (t.caBusy ≠ s.caBusy → ∃ b, i = .caBusy b) ∧
    (t.caTxActive ≠ s.caTxActive → i = .caTxdone ∨ ∃ r, i = .caCheck r) ∧
    (t.caSlotCnt ≠ s.caSlotCnt → i = .caTick ∨ ∃ r, i = .caCheck r) ∧
    (t.caDeafCnt ≠ s.caDeafCnt → i = .caTick ∨ i = .caTxdone) ∧
    (t.caNow ≠ s.caNow → i = .caTick) ∧
    (t.caLastRx ≠ s.caLastRx → i = .caBusy true) ∧
    (t.caLastTx ≠ s.caLastTx → i = .caTxdone)

/-- R134: when an instruction is stuck, refused or held, over every instruction and state. -/
def Obligations.WhenAnOperationDoesNotComplete : Prop :=
  ∀ (i : Instr) (s : State),
    (∀ f, exec i s = .fault f ↔
      ((∃ r, i = .caCheck r) ∧ s.caTxActive = true ∧ f = .checkWhileTransmitting) ∨
        (i = .caTxdone ∧ s.caTxActive = false ∧ f = .txDoneWithoutGrant)) ∧
    ((∃ r, exec i s = .refused r) ↔
      (∃ n, i = .blkRdreg n ∧ n ∉ listedRegisters) ∨
      (∃ sel v, i = .caSetcfg sel v ∧
        (2 < sel.toNat ∨ (sel = 0 ∧ 0xFF < v.toNat) ∨ (sel = 1 ∧ 0xFFFF < v.toNat))) ∨
      (∃ dest src digis p, i = .axEncodeui dest src digis p ∧ 8 < digis.length) ∨
      (∃ f, i = .axUnpackaddr f ∧ f.length ≠ 7)) ∧
    ((∃ t, exec i s = .next t ∧ t.reply = .held) ↔
      (∃ r, i = .caCheck r) ∧ s.caTxActive = false ∧ s.caSlotCnt ≠ 0)

/-- R154 (3), (4), R134: every well-formed instruction answers a next state, whatever the state, while the host keeps its two
transmit duties. It completes there, but for a CA.CHECK during a slot wait, whose next state is a hold (log entry 4). -/
def Obligations.ContractKeepsTheBlockGoing : Prop :=
  ∀ (i : Instr) (s : State), i.wf = true → hostContract i s →
    ∃ t, exec i s = .next t ∧
      ((∃ events r, t.reply = .done events r) ∨
        t.reply = .held ∧ (∃ r, i = .caCheck r) ∧ s.caTxActive = false ∧ s.caSlotCnt ≠ 0)

/-! ### The host contract -/

/-- R152: the boot operations leave the arbiter configured as the host asks, ready, with the default deaf period, and the framer
idle. -/
def Obligations.BootConfiguresTheArbiter : Prop :=
  ∀ (s : State) (persistence : Byte) (slot : U16), ∃ rs t, runOps (bootOps persistence slot) s = some (rs, t) ∧
    t.caPersist = persistence ∧ t.caSlot = slot ∧ t.caDeaf = 2000 ∧ t.ready = true ∧ t.rxOk = true ∧
    t.kfState = .waitFend ∧ t.kfLen = 0

/-- R153: leaving Kiss mode discards the partial frame and acknowledges EXIT, keeps the other status bits, and gives no host
byte. -/
def Obligations.LeavingKissIsSilent : Prop :=
  ∀ s : State, ∃ t, runOps leaveKissOps s = some ([.done [] .none, .done [] .none], t) ∧
    t = { s with kfState := .waitFend, kfLen := 0, kfBuf := t.kfBuf, kfStat := t.kfStat, reply := .done [] .none } ∧
    t.exitFlag = false ∧ ∀ k, k ≠ 0 → t.kfStat.getLsbD k = s.kfStat.getLsbD k

/-- R155 (2) to (4): a packet that is taken up while rx_ok is 0 is dropped without a parse. Another gets the parse that AX.PARSE
answers for it: one that is not valid is dropped without forwarding, a valid one is framed by KF.ENCODE, whatever command
byte and payload the host chooses (the source does not give them). -/
def Obligations.ReceiveDuty : Prop :=
  ∀ (s : State) (packet : List Byte) (c : Byte) (p : List Byte),
    (s.rxOk = false → ∃ t, receivePacket packet c p s = some (.suppressed, t) ∧ t = { s with reply := t.reply }) ∧
    (s.rxOk = true → ∃ f u, exec (.axParse packet) s = .next u ∧ u.reply = .done [] (.parsed f) ∧
      (f.valid = false → receivePacket packet c p s = some (.invalid f.reason, u)) ∧
      (f.valid = true → ∃ t, exec (.kfEncode c p) u = .next t ∧
        receivePacket packet c p s = some (.forwarded f (wireFrame c p), t)))
end

