-- ==== Sys2Proof/Laws/Codec.lean ====
section
/-! SUPPORT. The laws of the AX.25 codec's functions: lengths, the packed and unpacked address, the address scan. -/

namespace Sys2Proof.Machine

@[simp] theorem padCallsign_length (cs : List Byte) : (padCallsign cs).length = 6 := by
  simp only [padCallsign, Config.callLen, List.length_append, List.length_take, List.length_replicate]
  omega

@[simp] theorem packAddr_length (a : Addr) (last : Bool) : (packAddr a last).length = 7 := by
  simp [packAddr]

/-- The characters a packed address carries: the callsign's, and spaces after them. -/
theorem padCallsign_getElem? (cs : List Byte) (k : Nat) (h : k < 6) : (padCallsign cs)[k]? = some (cs.getD k 0x20) := by
  have hl : k < (padCallsign cs).length := by simpa using h
  rw [List.getElem?_eq_getElem hl]
  simp only [padCallsign, Config.callLen, List.getElem_append, List.length_take, List.getElem_take, List.getElem_replicate]
  split
  · rw [List.getD_eq_getElem?_getD, List.getElem?_eq_getElem (by omega)]
    rfl
  · rw [List.getD_eq_getElem?_getD, List.getElem?_eq_none (by omega)]
    rfl

/-- Trimming takes only spaces, and all that are at the end. -/
theorem trimSpaces_spec (ch : List Byte) :
    ∃ k, trimSpaces ch ++ List.replicate k 0x20 = ch ∧ (trimSpaces ch).getLast? ≠ some 0x20 := by
  have key (sp : Byte) (l : List Byte) : ∃ k, List.replicate k sp ++ l.dropWhile (fun b => b == sp) = l ∧
      (l.dropWhile (fun b => b == sp)).head? ≠ some sp := by
    induction l with
    | nil => exact ⟨0, by simp⟩
    | cons b t ih =>
      by_cases hb : b = sp
      · subst hb
        obtain ⟨k, h1, h2⟩ := ih
        exact ⟨k + 1, by simpa [List.replicate_succ] using h1, by simpa using h2⟩
      · exact ⟨0, by simp [hb], by simp [hb]⟩
  obtain ⟨k, h1, h2⟩ := key 0x20 ch.reverse
  refine ⟨k, ?_, by simpa [trimSpaces] using h2⟩
  have := congrArg List.reverse h1
  simpa [trimSpaces] using this

/-- A callsign without a trailing space comes back from its padded form. -/
theorem trimSpaces_append (cs : List Byte) (k : Nat) (h : cs.getLast? ≠ some 0x20) :
    trimSpaces (cs ++ List.replicate k 0x20) = cs := by
  have hd (sp : Byte) (l : List Byte) (hl : l.head? ≠ some sp) : l.dropWhile (fun b => b == sp) = l := by
    cases l with
    | nil => rfl
    | cons b t => simp_all
  have hr (sp : Byte) (n : Nat) (l : List Byte) : (List.replicate n sp ++ l).dropWhile (fun b => b == sp) =
      l.dropWhile (fun b => b == sp) := by
    induction n with
    | zero => rfl
    | succ n ih => simp [List.replicate_succ, ih]
  rw [trimSpaces, List.reverse_append, List.reverse_replicate, hr, hd 0x20 _ (by simpa using h), List.reverse_reverse]

/-- A character below 0x80 survives the shift of R65. -/
theorem callByte_shiftRight (ch : Byte) (h : ch.toNat < 0x80) : callByte ch >>> (1 : Nat) = ch := by
  apply BitVec.eq_of_toNat_eq
  simp only [callByte, BitVec.toNat_ushiftRight, BitVec.toNat_shiftLeft, Nat.shiftLeft_eq, Nat.shiftRight_eq_div_pow]
  omega

theorem ssidByte_shiftRight (ssid : BitVec 4) (ext : Bool) :
    (ssidByte ssid ext >>> (1 : Nat)) &&& 0x0F = ssid.setWidth 8 := by
  revert ssid ext; decide

theorem ssidByte_ext (ssid : BitVec 4) (ext : Bool) : (ssidByte ssid ext).getLsbD 0 = ext := by
  revert ssid ext; decide

/-- The round trip of R108. -/
theorem unpackAddr_packAddr (a : Addr) (last : Bool) (hl : a.callsign.length ≤ 6)
    (hc : ∀ ch ∈ a.callsign, ch ≠ 0x20 ∧ ch.toNat < 0x80) (hs : a.ssid.toNat ≤ 15) :
    unpackAddr (packAddr a last) = a := by
  have hpad : padCallsign a.callsign = a.callsign ++ List.replicate (6 - a.callsign.length) 0x20 := by
    rw [padCallsign, Config.callLen, List.take_of_length_le hl]
  have h6 : (packAddr a last).take 6 = (padCallsign a.callsign).map callByte := by
    rw [packAddr, List.take_append_of_le_length (by simp), List.take_of_length_le (by simp)]
  have hb : (packAddr a last).getD 6 0 = ssidByte (a.ssid.setWidth 4) last := by
    simp [packAddr]
  have hm : ((padCallsign a.callsign).map callByte).map (fun (b : Byte) => b >>> (1 : Nat)) = padCallsign a.callsign := by
    rw [List.map_map]
    refine List.map_congr_left (fun ch h => callByte_shiftRight ch ?_) |>.trans (List.map_id _)
    rw [hpad, List.mem_append] at h
    rcases h with h | h
    · exact (hc ch h).2
    · rw [(List.mem_replicate.1 h).2]
      decide
  have hlast : a.callsign.getLast? ≠ some 0x20 := fun h => (hc _ (List.mem_of_getLast? h)).1 rfl
  rw [unpackAddr, h6, hm, hb, ssidByte_shiftRight, hpad, trimSpaces_append _ _ hlast]
  have : (a.ssid.setWidth 4).setWidth 8 = a.ssid := by
    apply BitVec.eq_of_toNat_eq
    simp only [BitVec.toNat_setWidth]
    omega
  rw [this]

/-- The scan over a whole field in front: it ends there when the field has its extension bit, and else goes on. -/
theorem scanFields_cons (fuel : Nat) (f rest : List Byte) (h : f.length = 7) :
    scanFields (fuel + 1) (f ++ rest) =
      if (f.getD 6 0).getLsbD 0 then ([f], true)
      else (f :: (scanFields fuel rest).1, (scanFields fuel rest).2) := by
  match f, h with
  | [_, _, _, _, _, _, _], _ => rfl

/-- The scan stops at the end of the buffer: a field that is not whole is not scanned. -/
theorem scanFields_short (fuel : Nat) (buf : List Byte) (h : buf.length < 7) : scanFields fuel buf = ([], false) := by
  cases fuel with
  | zero => rfl
  | succ n =>
    match buf, h with
    | [], _ | [_], _ | [_, _], _ | [_, _, _], _ | [_, _, _, _], _ | [_, _, _, _, _], _ | [_, _, _, _, _, _], _ => rfl

/-- The scan over fields without the extension bit, then one that has it. -/
theorem scanFields_found (fields : List (List Byte)) (last rest : List Byte) (fuel : Nat)
    (hf : ∀ f ∈ fields, f.length = 7 ∧ (f.getD 6 0).getLsbD 0 = false)
    (hl : last.length = 7 ∧ (last.getD 6 0).getLsbD 0 = true) (hn : fields.length < fuel) :
    scanFields fuel (fields.flatten ++ (last ++ rest)) = (fields ++ [last], true) := by
  induction fields generalizing fuel with
  | nil =>
    obtain ⟨n, rfl⟩ : ∃ n, fuel = n + 1 := ⟨fuel - 1, by simp at hn; omega⟩
    simp only [List.flatten_nil, List.nil_append]
    rw [scanFields_cons n last rest hl.1, if_pos hl.2]
  | cons f t ih =>
    obtain ⟨n, rfl⟩ : ∃ n, fuel = n + 1 := ⟨fuel - 1, by simp at hn; omega⟩
    have h0 := hf f (List.mem_cons_self ..)
    rw [List.flatten_cons, List.append_assoc, scanFields_cons n f _ h0.1, if_neg (by rw [h0.2]; decide),
      ih n (fun g hg => hf g (List.mem_cons_of_mem _ hg)) (by simp at hn; omega)]
    rfl

/-- The SSID byte of a packed address carries the extension bit. -/
theorem packAddr_ext (a : Addr) (last : Bool) : ((packAddr a last).getD 6 0).getLsbD 0 = last := by
  have : (packAddr a last).getD 6 0 = ssidByte (a.ssid.setWidth 4) last := by simp [packAddr]
  rw [this, ssidByte_ext]

/-- The address header as its fields in order: every one but the last without its extension bit. -/
theorem addressHeader_fields (dest src : Addr) (digis : List Addr) :
    ∃ (front : List Addr) (final : Addr), dest :: src :: digis = front ++ [final] ∧
      addressHeader dest src digis = (front.map fun a => packAddr a false).flatten ++ packAddr final true := by
  have hd (d : Addr) (t : List Addr) : ∃ (front : List Addr) (final : Addr), d :: t = front ++ [final] ∧
      packDigis (d :: t) = (front.map fun a => packAddr a false).flatten ++ packAddr final true := by
    induction t generalizing d with
    | nil => exact ⟨[], d, rfl, by simp [packDigis]⟩
    | cons e u ih =>
      obtain ⟨front, final, h1, h2⟩ := ih e
      exact ⟨d :: front, final, by simp [h1], by simp [packDigis, h2]⟩
  cases digis with
  | nil => exact ⟨[dest], src, rfl, by simp [addressHeader, packDigis]⟩
  | cons d t =>
    obtain ⟨front, final, h1, h2⟩ := hd d t
    exact ⟨dest :: src :: front, final, by simp [h1], by simp [addressHeader, h2]⟩

theorem addressHeader_length (dest src : Addr) (digis : List Addr) :
    (addressHeader dest src digis).length = 7 * (2 + digis.length) := by
  have hd (l : List Addr) : (packDigis l).length = 7 * l.length := by
    induction l with
    | nil => rfl
    | cons d t ih =>
      cases t with
      | nil => simp [packDigis]
      | cons e u =>
        simp only [packDigis, List.length_append, ih, packAddr_length, List.length_cons]
        omega
  simp only [addressHeader, List.length_append, packAddr_length, hd]
  omega

theorem encodeUi_length (dest src : Addr) (digis : List Addr) (p : List Byte) :
    (encodeUi dest src digis p).length = 7 * (2 + digis.length) + 2 + p.length + 2 := by
  simp only [encodeUi, uiBody, crcBytes, addressHeader_length, List.length_append, List.length_cons, List.length_nil]

end Sys2Proof.Machine
end

