-- ==== Sys2Proof/Laws/Decode.lean ====
section
/-! SUPPORT. Reading back what the encoder wrote, operand form by operand form. -/

namespace Sys2Proof

@[simp] theorem Decoded.bind_ok {α β : Type} (a : α) (t : List Byte) (f : α → List Byte → Decoded β) :
    (Decoded.ok a t).bind f = f a t := rfl

@[simp] theorem Decoded.bind_bad {α β : Type} (e : DecodeError) (f : α → List Byte → Decoded β) :
    (Decoded.bad e).bind f = .bad e := rfl

@[simp] theorem Decoded.map_ok {α β : Type} (f : α → β) (a : α) (t : List Byte) :
    (Decoded.ok a t).map f = .ok (f a) t := rfl

@[simp] theorem readByte_cons (b : Byte) (t : List Byte) : readByte (b :: t) = .ok b t := rfl

theorem readBool_encBool (b : Bool) (t : List Byte) : readBool (encBool b ++ t) = .ok b t := by
  cases b <;> rfl

theorem readU32_encU32 (v : U32) (t : List Byte) : readU32 (encU32 v ++ t) = .ok v t := by
  have : v.extractLsb' 24 8 ++ v.extractLsb' 16 8 ++ v.extractLsb' 8 8 ++ v.extractLsb' 0 8 = v := by
    ext i hi
    simp only [BitVec.getElem_append, BitVec.getElem_extractLsb']
    repeat' split
    all_goals simp only [← BitVec.getLsbD_eq_getElem hi]; congr 1; omega
  simp only [encU32, List.cons_append, List.nil_append, readU32, this]

theorem readPort_encPort (p : BitVec 4) (t : List Byte) : readPort (encPort p ++ t) = .ok p t := by
  have h : (p.setWidth 8).toNat ≤ 15 := by
    have := p.isLt
    simp only [BitVec.toNat_setWidth]
    omega
  have e : (p.setWidth 8).extractLsb' 0 4 = p := by revert p; decide
  simp only [encPort, List.cons_append, List.nil_append, readPort, h, if_true, e]

theorem readSeq_encSeq (p t : List Byte) : readSeq (encSeq p ++ t) = .ok p t := by
  induction p with
  | nil => cases t <;> rfl
  | cons b u ih =>
    rw [encSeq, List.cons_append, List.cons_append, readSeq, if_neg (by decide), if_pos rfl]
    simp [ih]

theorem readField7_append (f t : List Byte) (h : f.length = 7) : readField7 (f ++ t) = .ok f t := by
  match f, h with
  | [_, _, _, _, _, _, _], _ => rfl

theorem readAddr_encAddr (a : Addr) (t : List Byte) : readAddr (encAddr a ++ t) = .ok a t := by
  rw [encAddr, List.append_assoc, readAddr, readSeq_encSeq]
  rfl

theorem encAddrs_length (l : List Addr) : l.length < (encAddrs l).length := by
  induction l with
  | nil => exact Nat.zero_lt_one
  | cons a t ih =>
    simp only [encAddrs, List.length_cons, List.length_append]
    omega

theorem readAddrs_encAddrs (l : List Addr) (t : List Byte) (fuel : Nat) (h : l.length < fuel) :
    readAddrs fuel (encAddrs l ++ t) = .ok l t := by
  induction l generalizing fuel with
  | nil =>
    obtain ⟨n, rfl⟩ : ∃ n, fuel = n + 1 := ⟨fuel - 1, by simp at h; omega⟩
    rfl
  | cons a u ih =>
    obtain ⟨n, rfl⟩ : ∃ n, fuel = n + 1 := ⟨fuel - 1, by simp at h; omega⟩
    rw [encAddrs, List.cons_append, readAddrs]
    simp only [if_true]
    rw [if_neg (by decide), List.append_assoc, readAddr_encAddr, Decoded.bind_ok,
      ih n (by simp at h; omega), Decoded.map_ok]

/-! ### Bit fields of a command byte and of the field bytes -/

@[simp] theorem portOf_commandByte (port code : BitVec 4) : portOf (commandByte port code) = port := by
  revert port code; decide

/-- The fields of a command byte of class Unknown with bit 3 set. -/
theorem classify_high (port : BitVec 4) (low : BitVec 3) (h : ¬(port = 15 ∧ low = 7)) :
    classify (commandByte port (1#1 ++ low)) = .unknown ∧ (commandByte port (1#1 ++ low)).getLsbD 3 = true ∧
      (commandByte port (1#1 ++ low)).extractLsb' 0 3 = low := by
  revert port low; decide

theorem ssidByte_fields (ssid : BitVec 4) (ext : Bool) :
    (ssidByte ssid ext).extractLsb' 5 3 = 3#3 ∧ (ssidByte ssid ext).getLsbD 0 = ext ∧
      (ssidByte ssid ext).extractLsb' 1 4 = ssid := by
  revert ssid ext; decide

theorem callByte_fields (ch : BitVec 7) :
    (callByte (ch.setWidth 8)).getLsbD 0 = false ∧ (callByte (ch.setWidth 8)).extractLsb' 1 7 = ch := by
  revert ch; decide

/-- A SETHARDWARE code that R64 does not list reads as the SetHardware frame with that payload. -/
theorem decodeSethwSub_unlisted (port : BitVec 4) (code : Byte) (args rest : List Byte) (h : code = 0 ∨ 9 < code.toNat) :
    decode .sethwSub (code :: (encPort port ++ encSeq args) ++ rest) = .ok (.kissSetHardware port (code :: args)) rest := by
  have hc : code.toNat = 0 ∨ 9 < code.toNat := by
    rcases h with rfl | h
    · exact .inl rfl
    · exact .inr h
  simp only [List.cons_append, List.append_assoc, decode, decodeSethwSub, readPort_encPort, Decoded.bind, readSeq_encSeq]
  split <;> first | omega | rfl

end Sys2Proof
end

