-- ==== Sys2Proof/Laws/Mem.lean ====
section
/-! SUPPORT. The laws of kf_buf: a read after a write, the canonical form kept, an append at the end. -/

namespace Sys2Proof.Machine

@[simp] theorem memRead_nil (i : Nat) : memRead [] i = none := rfl

theorem memRead_memWrite_same (m : Memory) (i : Nat) (v : Byte) : memRead (memWrite m i v) i = some v := by
  induction m with
  | nil => simp [memWrite, memRead]
  | cons x t ih =>
    obtain ⟨k, w⟩ := x
    unfold memWrite
    split
    · simp [memRead]
    · split
      · simp [memRead]
      · rename_i h
        simp [memRead, Ne.symm h, ih]

theorem memRead_memWrite_ne (m : Memory) (i j : Nat) (v : Byte) (h : j ≠ i) :
    memRead (memWrite m i v) j = memRead m j := by
  induction m with
  | nil => simp [memWrite, memRead, Ne.symm h]
  | cons x t ih =>
    obtain ⟨k, w⟩ := x
    unfold memWrite
    split
    · simp [memRead, Ne.symm h]
    · split
      · rename_i hk
        subst hk
        simp [memRead, Ne.symm h]
      · simp only [memRead, ih]

theorem memRead_memWrite (m : Memory) (i j : Nat) (v : Byte) :
    memRead (memWrite m i v) j = if j = i then some v else memRead m j := by
  split
  · rename_i h
    rw [h, memRead_memWrite_same]
  · exact memRead_memWrite_ne m i j v ‹_›

/-- Every address of a written memory is the address written or one that was listed. -/
theorem mem_memWrite (m : Memory) (i : Nat) (v : Byte) (x : Host.Cell) (h : x ∈ memWrite m i v) :
    x.1 = i ∨ x ∈ m := by
  induction m with
  | nil =>
    simp only [memWrite, List.mem_singleton] at h
    exact .inl (by rw [h])
  | cons y t ih =>
    obtain ⟨k, w⟩ := y
    unfold memWrite at h
    split at h
    · rcases List.mem_cons.1 h with rfl | h
      · exact .inl rfl
      · exact .inr h
    · split at h
      · rcases List.mem_cons.1 h with rfl | h
        · exact .inl rfl
        · exact .inr (List.mem_cons_of_mem _ h)
      · rcases List.mem_cons.1 h with rfl | h
        · exact .inr (List.mem_cons_self ..)
        · rcases ih h with h | h
          · exact .inl h
          · exact .inr (List.mem_cons_of_mem _ h)

/-- The one memory operation keeps the canonical form. -/
theorem memWrite_wf (m : Memory) (i : Nat) (v : Byte) (h : Memory.wf m) : Memory.wf (memWrite m i v) := by
  induction m with
  | nil => exact List.pairwise_singleton _ _
  | cons x t ih =>
    obtain ⟨k, w⟩ := x
    obtain ⟨hk, ht⟩ := List.pairwise_cons.1 h
    unfold memWrite
    split
    · rename_i hlt
      refine List.pairwise_cons.2 ⟨fun y hy => ?_, h⟩
      rcases List.mem_cons.1 hy with rfl | hy
      · exact hlt
      · exact Nat.lt_trans hlt (hk y hy)
    · split
      · rename_i heq
        exact List.pairwise_cons.2 ⟨fun y hy => heq ▸ hk y hy, ht⟩
      · refine List.pairwise_cons.2 ⟨fun y hy => ?_, ih ht⟩
        rcases mem_memWrite t i v y hy with hy | hy
        · dsimp only
          omega
        · exact hk y hy

/-- A write past every listed address is an append. -/
theorem memWrite_end (m : Memory) (i : Nat) (v : Byte) (h : ∀ x ∈ m, x.1 < i) : memWrite m i v = m ++ [(i, v)] := by
  induction m with
  | nil => rfl
  | cons x t ih =>
    obtain ⟨k, w⟩ := x
    have hk := h (k, w) (List.mem_cons_self ..)
    unfold memWrite
    rw [if_neg (by dsimp only at hk; omega), if_neg (by dsimp only at hk; omega),
      ih fun y hy => h y (List.mem_cons_of_mem _ hy)]
    rfl

theorem keys_lt (m : Memory) (n : Nat) (h : m.map Prod.fst = List.range n) (x : Host.Cell) (hx : x ∈ m) : x.1 < n :=
  List.mem_range.1 (h ▸ List.mem_map_of_mem hx)

/-- The append of R75 keeps the buffer's listed addresses exactly the valid ones. -/
theorem keys_append (m : Memory) (n : Nat) (v : Byte) (h : m.map Prod.fst = List.range n) :
    (memWrite m n v).map Prod.fst = List.range (n + 1) := by
  rw [memWrite_end m n v (keys_lt m n h), List.map_append, h, List.range_succ]
  rfl

/-- Listed addresses that are exactly the valid ones are in canonical form. -/
theorem keys_wf (m : Memory) (n : Nat) (h : m.map Prod.fst = List.range n) : Memory.wf m := by
  have : (m.map Prod.fst).Pairwise (· < ·) := h ▸ List.pairwise_lt_range
  exact List.pairwise_map.1 this

end Sys2Proof.Machine
end

