-- ==== Sys2Proof/Laws/State.lean ====
section
/-! SUPPORT. One lemma per field per named update of the state, and the interface updates field by field. -/

namespace Sys2Proof.Machine

variable (s : State) (p : Params)

@[simp] theorem countRx_kfState : (countRx s).kfState = s.kfState := rfl
@[simp] theorem countRx_kfLen : (countRx s).kfLen = s.kfLen := rfl
@[simp] theorem countRx_kfBuf : (countRx s).kfBuf = s.kfBuf := rfl
@[simp] theorem countRx_kfStat : (countRx s).kfStat = s.kfStat := rfl
@[simp] theorem countRx_kfRxFrames : (countRx s).kfRxFrames = s.kfRxFrames := rfl
@[simp] theorem countRx_kfRxBytes : (countRx s).kfRxBytes = s.kfRxBytes + 1 := rfl
@[simp] theorem countRx_kfTxFrames : (countRx s).kfTxFrames = s.kfTxFrames := rfl
@[simp] theorem countRx_kfTxBytes : (countRx s).kfTxBytes = s.kfTxBytes := rfl
@[simp] theorem countRx_kfErrors : (countRx s).kfErrors = s.kfErrors := rfl
@[simp] theorem countRx_crcReg : (countRx s).crcReg = s.crcReg := rfl
@[simp] theorem countRx_caPersist : (countRx s).caPersist = s.caPersist := rfl
@[simp] theorem countRx_caSlot : (countRx s).caSlot = s.caSlot := rfl
@[simp] theorem countRx_caDeaf : (countRx s).caDeaf = s.caDeaf := rfl
@[simp] theorem countRx_caBusy : (countRx s).caBusy = s.caBusy := rfl
@[simp] theorem countRx_caTxActive : (countRx s).caTxActive = s.caTxActive := rfl
@[simp] theorem countRx_caSlotCnt : (countRx s).caSlotCnt = s.caSlotCnt := rfl
@[simp] theorem countRx_caDeafCnt : (countRx s).caDeafCnt = s.caDeafCnt := rfl
@[simp] theorem countRx_caNow : (countRx s).caNow = s.caNow := rfl
@[simp] theorem countRx_caLastRx : (countRx s).caLastRx = s.caLastRx := rfl
@[simp] theorem countRx_caLastTx : (countRx s).caLastTx = s.caLastTx := rfl
@[simp] theorem countRx_reply : (countRx s).reply = s.reply := rfl
@[simp] theorem countRx_hostIn : (countRx s).hostIn = s.hostIn := rfl
@[simp] theorem countRx_threadIn : (countRx s).threadIn = s.threadIn := rfl
@[simp] theorem countRx_radioIn : (countRx s).radioIn = s.radioIn := rfl
@[simp] theorem countRx_timerIn : (countRx s).timerIn = s.timerIn := rfl
@[simp] theorem countRx_sched : (countRx s).sched = s.sched := rfl
@[simp] theorem countRx_freeCtr : (countRx s).freeCtr = s.freeCtr := rfl

@[simp] theorem idleFramer_kfState : (idleFramer s).kfState = .waitFend := rfl
@[simp] theorem idleFramer_kfLen : (idleFramer s).kfLen = 0 := rfl
@[simp] theorem idleFramer_kfBuf : (idleFramer s).kfBuf = [] := rfl
@[simp] theorem idleFramer_kfStat : (idleFramer s).kfStat = s.kfStat := rfl
@[simp] theorem idleFramer_kfRxFrames : (idleFramer s).kfRxFrames = s.kfRxFrames := rfl
@[simp] theorem idleFramer_kfRxBytes : (idleFramer s).kfRxBytes = s.kfRxBytes := rfl
@[simp] theorem idleFramer_kfTxFrames : (idleFramer s).kfTxFrames = s.kfTxFrames := rfl
@[simp] theorem idleFramer_kfTxBytes : (idleFramer s).kfTxBytes = s.kfTxBytes := rfl
@[simp] theorem idleFramer_kfErrors : (idleFramer s).kfErrors = s.kfErrors := rfl
@[simp] theorem idleFramer_crcReg : (idleFramer s).crcReg = s.crcReg := rfl
@[simp] theorem idleFramer_caPersist : (idleFramer s).caPersist = s.caPersist := rfl
@[simp] theorem idleFramer_caSlot : (idleFramer s).caSlot = s.caSlot := rfl
@[simp] theorem idleFramer_caDeaf : (idleFramer s).caDeaf = s.caDeaf := rfl
@[simp] theorem idleFramer_caBusy : (idleFramer s).caBusy = s.caBusy := rfl
@[simp] theorem idleFramer_caTxActive : (idleFramer s).caTxActive = s.caTxActive := rfl
@[simp] theorem idleFramer_caSlotCnt : (idleFramer s).caSlotCnt = s.caSlotCnt := rfl
@[simp] theorem idleFramer_caDeafCnt : (idleFramer s).caDeafCnt = s.caDeafCnt := rfl
@[simp] theorem idleFramer_caNow : (idleFramer s).caNow = s.caNow := rfl
@[simp] theorem idleFramer_caLastRx : (idleFramer s).caLastRx = s.caLastRx := rfl
@[simp] theorem idleFramer_caLastTx : (idleFramer s).caLastTx = s.caLastTx := rfl
@[simp] theorem idleFramer_reply : (idleFramer s).reply = s.reply := rfl
@[simp] theorem idleFramer_hostIn : (idleFramer s).hostIn = s.hostIn := rfl
@[simp] theorem idleFramer_threadIn : (idleFramer s).threadIn = s.threadIn := rfl
@[simp] theorem idleFramer_radioIn : (idleFramer s).radioIn = s.radioIn := rfl
@[simp] theorem idleFramer_timerIn : (idleFramer s).timerIn = s.timerIn := rfl
@[simp] theorem idleFramer_sched : (idleFramer s).sched = s.sched := rfl
@[simp] theorem idleFramer_freeCtr : (idleFramer s).freeCtr = s.freeCtr := rfl

@[simp] theorem openFrame_kfState : (openFrame s).kfState = .inFrame := rfl
@[simp] theorem openFrame_kfLen : (openFrame s).kfLen = 0 := rfl
@[simp] theorem openFrame_kfBuf : (openFrame s).kfBuf = [] := rfl
@[simp] theorem openFrame_kfStat : (openFrame s).kfStat = s.kfStat := rfl
@[simp] theorem openFrame_kfRxFrames : (openFrame s).kfRxFrames = s.kfRxFrames := rfl
@[simp] theorem openFrame_kfRxBytes : (openFrame s).kfRxBytes = s.kfRxBytes := rfl
@[simp] theorem openFrame_kfTxFrames : (openFrame s).kfTxFrames = s.kfTxFrames := rfl
@[simp] theorem openFrame_kfTxBytes : (openFrame s).kfTxBytes = s.kfTxBytes := rfl
@[simp] theorem openFrame_kfErrors : (openFrame s).kfErrors = s.kfErrors := rfl
@[simp] theorem openFrame_crcReg : (openFrame s).crcReg = s.crcReg := rfl
@[simp] theorem openFrame_caPersist : (openFrame s).caPersist = s.caPersist := rfl
@[simp] theorem openFrame_caSlot : (openFrame s).caSlot = s.caSlot := rfl
@[simp] theorem openFrame_caDeaf : (openFrame s).caDeaf = s.caDeaf := rfl
@[simp] theorem openFrame_caBusy : (openFrame s).caBusy = s.caBusy := rfl
@[simp] theorem openFrame_caTxActive : (openFrame s).caTxActive = s.caTxActive := rfl
@[simp] theorem openFrame_caSlotCnt : (openFrame s).caSlotCnt = s.caSlotCnt := rfl
@[simp] theorem openFrame_caDeafCnt : (openFrame s).caDeafCnt = s.caDeafCnt := rfl
@[simp] theorem openFrame_caNow : (openFrame s).caNow = s.caNow := rfl
@[simp] theorem openFrame_caLastRx : (openFrame s).caLastRx = s.caLastRx := rfl
@[simp] theorem openFrame_caLastTx : (openFrame s).caLastTx = s.caLastTx := rfl
@[simp] theorem openFrame_reply : (openFrame s).reply = s.reply := rfl
@[simp] theorem openFrame_hostIn : (openFrame s).hostIn = s.hostIn := rfl
@[simp] theorem openFrame_threadIn : (openFrame s).threadIn = s.threadIn := rfl
@[simp] theorem openFrame_radioIn : (openFrame s).radioIn = s.radioIn := rfl
@[simp] theorem openFrame_timerIn : (openFrame s).timerIn = s.timerIn := rfl
@[simp] theorem openFrame_sched : (openFrame s).sched = s.sched := rfl
@[simp] theorem openFrame_freeCtr : (openFrame s).freeCtr = s.freeCtr := rfl

@[simp] theorem tick_kfState : (tick s).kfState = s.kfState := rfl
@[simp] theorem tick_kfLen : (tick s).kfLen = s.kfLen := rfl
@[simp] theorem tick_kfBuf : (tick s).kfBuf = s.kfBuf := rfl
@[simp] theorem tick_kfStat : (tick s).kfStat = s.kfStat := rfl
@[simp] theorem tick_kfRxFrames : (tick s).kfRxFrames = s.kfRxFrames := rfl
@[simp] theorem tick_kfRxBytes : (tick s).kfRxBytes = s.kfRxBytes := rfl
@[simp] theorem tick_kfTxFrames : (tick s).kfTxFrames = s.kfTxFrames := rfl
@[simp] theorem tick_kfTxBytes : (tick s).kfTxBytes = s.kfTxBytes := rfl
@[simp] theorem tick_kfErrors : (tick s).kfErrors = s.kfErrors := rfl
@[simp] theorem tick_crcReg : (tick s).crcReg = s.crcReg := rfl
@[simp] theorem tick_caPersist : (tick s).caPersist = s.caPersist := rfl
@[simp] theorem tick_caSlot : (tick s).caSlot = s.caSlot := rfl
@[simp] theorem tick_caDeaf : (tick s).caDeaf = s.caDeaf := rfl
@[simp] theorem tick_caBusy : (tick s).caBusy = s.caBusy := rfl
@[simp] theorem tick_caTxActive : (tick s).caTxActive = s.caTxActive := rfl
@[simp] theorem tick_caSlotCnt : (tick s).caSlotCnt = countDown s.caSlotCnt := rfl
@[simp] theorem tick_caDeafCnt : (tick s).caDeafCnt = countDown s.caDeafCnt := rfl
@[simp] theorem tick_caNow : (tick s).caNow = s.caNow + 1 := rfl
@[simp] theorem tick_caLastRx : (tick s).caLastRx = s.caLastRx := rfl
@[simp] theorem tick_caLastTx : (tick s).caLastTx = s.caLastTx := rfl
@[simp] theorem tick_reply : (tick s).reply = s.reply := rfl
@[simp] theorem tick_hostIn : (tick s).hostIn = s.hostIn := rfl
@[simp] theorem tick_threadIn : (tick s).threadIn = s.threadIn := rfl
@[simp] theorem tick_radioIn : (tick s).radioIn = s.radioIn := rfl
@[simp] theorem tick_timerIn : (tick s).timerIn = s.timerIn := rfl
@[simp] theorem tick_sched : (tick s).sched = s.sched := rfl
@[simp] theorem tick_freeCtr : (tick s).freeCtr = s.freeCtr := rfl

@[simp] theorem resetBlock_kfState : (resetBlock p s).kfState = .waitFend := rfl
@[simp] theorem resetBlock_kfLen : (resetBlock p s).kfLen = 0 := rfl
@[simp] theorem resetBlock_kfBuf : (resetBlock p s).kfBuf = [] := rfl
@[simp] theorem resetBlock_kfStat : (resetBlock p s).kfStat = 0 := rfl
@[simp] theorem resetBlock_kfRxFrames : (resetBlock p s).kfRxFrames = 0 := rfl
@[simp] theorem resetBlock_kfRxBytes : (resetBlock p s).kfRxBytes = 0 := rfl
@[simp] theorem resetBlock_kfTxFrames : (resetBlock p s).kfTxFrames = 0 := rfl
@[simp] theorem resetBlock_kfTxBytes : (resetBlock p s).kfTxBytes = 0 := rfl
@[simp] theorem resetBlock_kfErrors : (resetBlock p s).kfErrors = 0 := rfl
@[simp] theorem resetBlock_crcReg : (resetBlock p s).crcReg = 0xFFFF := rfl
@[simp] theorem resetBlock_caPersist : (resetBlock p s).caPersist = p.resetPersistence := rfl
@[simp] theorem resetBlock_caSlot : (resetBlock p s).caSlot = p.resetSlotTime := rfl
@[simp] theorem resetBlock_caDeaf : (resetBlock p s).caDeaf = Config.resetDeafMs := rfl
@[simp] theorem resetBlock_caBusy : (resetBlock p s).caBusy = false := rfl
@[simp] theorem resetBlock_caTxActive : (resetBlock p s).caTxActive = false := rfl
@[simp] theorem resetBlock_caSlotCnt : (resetBlock p s).caSlotCnt = 0 := rfl
@[simp] theorem resetBlock_caDeafCnt : (resetBlock p s).caDeafCnt = 0 := rfl
@[simp] theorem resetBlock_caNow : (resetBlock p s).caNow = 0 := rfl
@[simp] theorem resetBlock_caLastRx : (resetBlock p s).caLastRx = 0 := rfl
@[simp] theorem resetBlock_caLastTx : (resetBlock p s).caLastTx = 0 := rfl
@[simp] theorem resetBlock_reply : (resetBlock p s).reply = s.reply := rfl
@[simp] theorem resetBlock_hostIn : (resetBlock p s).hostIn = s.hostIn := rfl
@[simp] theorem resetBlock_threadIn : (resetBlock p s).threadIn = s.threadIn := rfl
@[simp] theorem resetBlock_radioIn : (resetBlock p s).radioIn = s.radioIn := rfl
@[simp] theorem resetBlock_timerIn : (resetBlock p s).timerIn = s.timerIn := rfl
@[simp] theorem resetBlock_sched : (resetBlock p s).sched = s.sched := rfl
@[simp] theorem resetBlock_freeCtr : (resetBlock p s).freeCtr = s.freeCtr := rfl

variable (a : Agent) (q : List Byte)

@[simp] theorem setQueue_kfState : (s.setQueue a q).kfState = s.kfState := by cases a <;> rfl
@[simp] theorem setQueue_kfLen : (s.setQueue a q).kfLen = s.kfLen := by cases a <;> rfl
@[simp] theorem setQueue_kfBuf : (s.setQueue a q).kfBuf = s.kfBuf := by cases a <;> rfl
@[simp] theorem setQueue_kfStat : (s.setQueue a q).kfStat = s.kfStat := by cases a <;> rfl
@[simp] theorem setQueue_kfRxFrames : (s.setQueue a q).kfRxFrames = s.kfRxFrames := by cases a <;> rfl
@[simp] theorem setQueue_kfRxBytes : (s.setQueue a q).kfRxBytes = s.kfRxBytes := by cases a <;> rfl
@[simp] theorem setQueue_kfTxFrames : (s.setQueue a q).kfTxFrames = s.kfTxFrames := by cases a <;> rfl
@[simp] theorem setQueue_kfTxBytes : (s.setQueue a q).kfTxBytes = s.kfTxBytes := by cases a <;> rfl
@[simp] theorem setQueue_kfErrors : (s.setQueue a q).kfErrors = s.kfErrors := by cases a <;> rfl
@[simp] theorem setQueue_crcReg : (s.setQueue a q).crcReg = s.crcReg := by cases a <;> rfl
@[simp] theorem setQueue_caPersist : (s.setQueue a q).caPersist = s.caPersist := by cases a <;> rfl
@[simp] theorem setQueue_caSlot : (s.setQueue a q).caSlot = s.caSlot := by cases a <;> rfl
@[simp] theorem setQueue_caDeaf : (s.setQueue a q).caDeaf = s.caDeaf := by cases a <;> rfl
@[simp] theorem setQueue_caBusy : (s.setQueue a q).caBusy = s.caBusy := by cases a <;> rfl
@[simp] theorem setQueue_caTxActive : (s.setQueue a q).caTxActive = s.caTxActive := by cases a <;> rfl
@[simp] theorem setQueue_caSlotCnt : (s.setQueue a q).caSlotCnt = s.caSlotCnt := by cases a <;> rfl
@[simp] theorem setQueue_caDeafCnt : (s.setQueue a q).caDeafCnt = s.caDeafCnt := by cases a <;> rfl
@[simp] theorem setQueue_caNow : (s.setQueue a q).caNow = s.caNow := by cases a <;> rfl
@[simp] theorem setQueue_caLastRx : (s.setQueue a q).caLastRx = s.caLastRx := by cases a <;> rfl
@[simp] theorem setQueue_caLastTx : (s.setQueue a q).caLastTx = s.caLastTx := by cases a <;> rfl
@[simp] theorem setQueue_reply : (s.setQueue a q).reply = s.reply := by cases a <;> rfl
@[simp] theorem setQueue_sched : (s.setQueue a q).sched = s.sched := by cases a <;> rfl
@[simp] theorem setQueue_freeCtr : (s.setQueue a q).freeCtr = s.freeCtr := by cases a <;> rfl

@[simp] theorem setQueue_queue : (s.setQueue a q).queue a = q := by cases a <;> rfl

theorem setQueue_queue_ne (b : Agent) (h : b ≠ a) : (s.setQueue a q).queue b = s.queue b := by
  cases a <;> cases b <;> first | rfl | exact absurd rfl h

/-- Retiring an operation touches no field but its agent's queue. -/
theorem retire_cases (t : State) : retire a q t = t ∨ retire a q t = t.setQueue a q := by
  unfold retire
  split
  · exact .inl rfl
  · exact .inr rfl

theorem retire_held (t : State) (h : t.reply = .held) : retire a q t = t := by
  unfold retire
  rw [h]

theorem retire_done (t : State) (events : List Event) (result : Result) (h : t.reply = .done events result) :
    retire a q t = t.setQueue a q := by
  unfold retire
  rw [h]

end Sys2Proof.Machine
end

