-- ==== Sys2Proof/Laws/Ops.lean ====
section
/-! SUPPORT. One lemma per shared operation that says once all it can do. -/

namespace Sys2Proof.Machine

variable (p : Params) (s : State)

/-! ### The framer -/

/-- `append` writes the next byte, or is the overflow error with the buffer full. -/
theorem append_cases (v : Byte) :
    (s.kfLen < p.rxCap ∧ append p v s =
      ({ s with kfBuf := memWrite s.kfBuf s.kfLen v, kfLen := s.kfLen + 1, kfState := .inFrame }, [])) ∨
    (p.rxCap ≤ s.kfLen ∧ append p v s = framingError .overflow s) := by
  unfold append
  split
  · exact .inl ⟨‹_›, rfl⟩
  · exact .inr ⟨by omega, rfl⟩

theorem rxByte_waitFend (b : Byte) (h : s.kfState = .waitFend) : rxByte p b s = rxWaitFend b (countRx s) := by
  simp only [rxByte, countRx_kfState, h]

theorem rxByte_inFrame (b : Byte) (h : s.kfState = .inFrame) : rxByte p b s = rxInFrame p b (countRx s) := by
  simp only [rxByte, countRx_kfState, h]

theorem rxByte_escaped (b : Byte) (h : s.kfState = .escaped) : rxByte p b s = rxEscaped p b (countRx s) := by
  simp only [rxByte, countRx_kfState, h]

/-- The three receive states (R22). -/
theorem kfState_cases : s.kfState = .waitFend ∨ s.kfState = .inFrame ∨ s.kfState = .escaped := by
  cases s.kfState <;> simp

/-- All one host byte can do after it is counted (`u`): nothing, open a frame, raise EXIT, complete a frame, enter the escape
state, append a byte, or a framing error. -/
theorem rxByte_cases (b : Byte) :
    ∃ u, u = countRx s ∧
      (rxByte p b s = (u, []) ∨
        (b = fend ∧ s.kfState = .waitFend ∧ rxByte p b s = (openFrame u, [])) ∨
        (b = escSentinel ∧ s.kfState = .waitFend ∧
          rxByte p b s = ({ u with kfStat := setExit u.kfStat }, [.exit])) ∨
        (b = fend ∧ s.kfState = .inFrame ∧ s.kfLen ≠ 0 ∧ rxByte p b s = completeFrame p u) ∨
        (b = fesc ∧ s.kfState = .inFrame ∧ rxByte p b s = ({ u with kfState := .escaped }, [])) ∨
        (∃ v, s.kfState ≠ .waitFend ∧ s.kfLen < p.rxCap ∧ rxByte p b s =
          ({ u with kfBuf := memWrite s.kfBuf s.kfLen v, kfLen := s.kfLen + 1, kfState := .inFrame }, [])) ∨
        (∃ e, s.kfState ≠ .waitFend ∧ rxByte p b s = framingError e u)) := by
  refine ⟨countRx s, rfl, ?_⟩
  have happ (v : Byte) (hs : s.kfState ≠ .waitFend) (h : rxByte p b s = append p v (countRx s)) :
      (∃ v, s.kfState ≠ .waitFend ∧ s.kfLen < p.rxCap ∧ rxByte p b s =
          ({ countRx s with kfBuf := memWrite s.kfBuf s.kfLen v, kfLen := s.kfLen + 1, kfState := .inFrame }, [])) ∨
        (∃ e, s.kfState ≠ .waitFend ∧ rxByte p b s = framingError e (countRx s)) := by
    rcases append_cases p (countRx s) v with ⟨hl, ha⟩ | ⟨-, ha⟩
    · exact .inl ⟨v, hs, hl, h.trans ha⟩
    · exact .inr ⟨.overflow, hs, h.trans ha⟩
  cases hk : s.kfState with
  | waitFend =>
    have h0 : rxByte p b s = rxWaitFend b (countRx s) := rxByte_waitFend p s b hk
    rw [h0]
    unfold rxWaitFend
    split
    · exact .inr (.inl ⟨‹_›, rfl, rfl⟩)
    · split
      · exact .inr (.inr (.inl ⟨‹_›, rfl, rfl⟩))
      · exact .inl rfl
  | inFrame =>
    have h0 : rxByte p b s = rxInFrame p b (countRx s) := rxByte_inFrame p s b hk
    unfold rxInFrame at h0
    split at h0
    · split at h0
      · exact .inl h0
      · exact .inr (.inr (.inr (.inl ⟨‹_›, rfl, ‹_›, h0⟩)))
    · split at h0
      · exact .inr (.inr (.inr (.inr (.inl ⟨‹_›, rfl, h0⟩))))
      · rcases happ b (by simp [hk]) h0 with h | h
        · exact .inr (.inr (.inr (.inr (.inr (.inl (by simpa [hk] using h))))))
        · exact .inr (.inr (.inr (.inr (.inr (.inr (by simpa [hk] using h))))))
  | escaped =>
    have h0 : rxByte p b s = rxEscaped p b (countRx s) := rxByte_escaped p s b hk
    unfold rxEscaped at h0
    split at h0
    · rcases happ _ (by simp [hk]) h0 with h | h
      · exact .inr (.inr (.inr (.inr (.inr (.inl (by simpa [hk] using h))))))
      · exact .inr (.inr (.inr (.inr (.inr (.inr (by simpa [hk] using h))))))
    · split at h0
      · rcases happ _ (by simp [hk]) h0 with h | h
        · exact .inr (.inr (.inr (.inr (.inr (.inl (by simpa [hk] using h))))))
        · exact .inr (.inr (.inr (.inr (.inr (.inr (by simpa [hk] using h))))))
      · exact .inr (.inr (.inr (.inr (.inr (.inr ⟨.badEsc, by simp, h0⟩)))))

/-- The part of the state no receive operation touches: all but the framer's receive registers. -/
def sameButFramer (t : State) : Prop :=
  t = { s with
    kfState := t.kfState, kfLen := t.kfLen, kfBuf := t.kfBuf, kfStat := t.kfStat
    kfRxFrames := t.kfRxFrames, kfRxBytes := t.kfRxBytes, kfErrors := t.kfErrors }

theorem sameButFramer_refl : sameButFramer s s := rfl

theorem sameButFramer_trans {s t u : State} (h : sameButFramer s t) (k : sameButFramer t u) : sameButFramer s u := by
  unfold sameButFramer at *
  rw [h] at k
  exact k

/-- The frame of one host byte. -/
theorem rxByte_frame (b : Byte) : sameButFramer s (rxByte p b s).1 := by
  obtain ⟨u, rfl, h⟩ := rxByte_cases p s b
  rcases h with h | ⟨-, -, h⟩ | ⟨-, -, h⟩ | ⟨-, -, -, h⟩ | ⟨-, -, h⟩ | ⟨v, -, -, h⟩ | ⟨e, -, h⟩ <;> rw [h] <;> rfl

@[simp] theorem rxBytes_nil : rxBytes p [] s = (s, []) := rfl

theorem rxBytes_cons (b : Byte) (t : List Byte) :
    rxBytes p (b :: t) s =
      ((rxBytes p t (rxByte p b s).1).1, (rxByte p b s).2 ++ (rxBytes p t (rxByte p b s).1).2) := rfl

/-- Feeding two lists of bytes is feeding one after the other. -/
theorem rxBytes_append (x y : List Byte) :
    rxBytes p (x ++ y) s =
      ((rxBytes p y (rxBytes p x s).1).1, (rxBytes p x s).2 ++ (rxBytes p y (rxBytes p x s).1).2) := by
  induction x generalizing s with
  | nil => simp
  | cons b t ih => simp [rxBytes_cons, ih, List.append_assoc]

/-- The frame of a list of host bytes. -/
theorem rxBytes_frame (bs : List Byte) : sameButFramer s (rxBytes p bs s).1 := by
  induction bs generalizing s with
  | nil => exact sameButFramer_refl s
  | cons b t ih => exact sameButFramer_trans (rxByte_frame p s b) (ih _)

@[simp] theorem rxBytes_fst_kfTxFrames (bs : List Byte) : (rxBytes p bs s).1.kfTxFrames = s.kfTxFrames := by rw [rxBytes_frame p s bs]
@[simp] theorem rxBytes_fst_kfTxBytes (bs : List Byte) : (rxBytes p bs s).1.kfTxBytes = s.kfTxBytes := by rw [rxBytes_frame p s bs]
@[simp] theorem rxBytes_fst_crcReg (bs : List Byte) : (rxBytes p bs s).1.crcReg = s.crcReg := by rw [rxBytes_frame p s bs]
@[simp] theorem rxBytes_fst_caPersist (bs : List Byte) : (rxBytes p bs s).1.caPersist = s.caPersist := by rw [rxBytes_frame p s bs]
@[simp] theorem rxBytes_fst_caSlot (bs : List Byte) : (rxBytes p bs s).1.caSlot = s.caSlot := by rw [rxBytes_frame p s bs]
@[simp] theorem rxBytes_fst_caDeaf (bs : List Byte) : (rxBytes p bs s).1.caDeaf = s.caDeaf := by rw [rxBytes_frame p s bs]
@[simp] theorem rxBytes_fst_caBusy (bs : List Byte) : (rxBytes p bs s).1.caBusy = s.caBusy := by rw [rxBytes_frame p s bs]
@[simp] theorem rxBytes_fst_caTxActive (bs : List Byte) : (rxBytes p bs s).1.caTxActive = s.caTxActive := by rw [rxBytes_frame p s bs]
@[simp] theorem rxBytes_fst_caSlotCnt (bs : List Byte) : (rxBytes p bs s).1.caSlotCnt = s.caSlotCnt := by rw [rxBytes_frame p s bs]
@[simp] theorem rxBytes_fst_caDeafCnt (bs : List Byte) : (rxBytes p bs s).1.caDeafCnt = s.caDeafCnt := by rw [rxBytes_frame p s bs]
@[simp] theorem rxBytes_fst_caNow (bs : List Byte) : (rxBytes p bs s).1.caNow = s.caNow := by rw [rxBytes_frame p s bs]
@[simp] theorem rxBytes_fst_caLastRx (bs : List Byte) : (rxBytes p bs s).1.caLastRx = s.caLastRx := by rw [rxBytes_frame p s bs]
@[simp] theorem rxBytes_fst_caLastTx (bs : List Byte) : (rxBytes p bs s).1.caLastTx = s.caLastTx := by rw [rxBytes_frame p s bs]
@[simp] theorem rxBytes_fst_reply (bs : List Byte) : (rxBytes p bs s).1.reply = s.reply := by rw [rxBytes_frame p s bs]
@[simp] theorem rxBytes_fst_hostIn (bs : List Byte) : (rxBytes p bs s).1.hostIn = s.hostIn := by rw [rxBytes_frame p s bs]
@[simp] theorem rxBytes_fst_threadIn (bs : List Byte) : (rxBytes p bs s).1.threadIn = s.threadIn := by rw [rxBytes_frame p s bs]
@[simp] theorem rxBytes_fst_radioIn (bs : List Byte) : (rxBytes p bs s).1.radioIn = s.radioIn := by rw [rxBytes_frame p s bs]
@[simp] theorem rxBytes_fst_timerIn (bs : List Byte) : (rxBytes p bs s).1.timerIn = s.timerIn := by rw [rxBytes_frame p s bs]
@[simp] theorem rxBytes_fst_sched (bs : List Byte) : (rxBytes p bs s).1.sched = s.sched := by rw [rxBytes_frame p s bs]
@[simp] theorem rxBytes_fst_freeCtr (bs : List Byte) : (rxBytes p bs s).1.freeCtr = s.freeCtr := by rw [rxBytes_frame p s bs]

theorem append_reply (v : Byte) (r : Reply) :
    append p v { s with reply := r } = ({ (append p v s).1 with reply := r }, (append p v s).2) := by
  unfold append
  dsimp only
  split <;> rfl

/-- A host byte is independent of the reply left by the operation before it. -/
theorem rxByte_reply (b : Byte) (r : Reply) :
    rxByte p b { s with reply := r } = ({ (rxByte p b s).1 with reply := r }, (rxByte p b s).2) := by
  have hw : rxWaitFend b { countRx s with reply := r } =
      ({ (rxWaitFend b (countRx s)).1 with reply := r }, (rxWaitFend b (countRx s)).2) := by
    unfold rxWaitFend
    split
    · rfl
    · split <;> rfl
  have hi : rxInFrame p b { countRx s with reply := r } =
      ({ (rxInFrame p b (countRx s)).1 with reply := r }, (rxInFrame p b (countRx s)).2) := by
    unfold rxInFrame
    split
    · dsimp only
      split <;> rfl
    · split
      · rfl
      · exact append_reply p _ b r
  have he : rxEscaped p b { countRx s with reply := r } =
      ({ (rxEscaped p b (countRx s)).1 with reply := r }, (rxEscaped p b (countRx s)).2) := by
    unfold rxEscaped
    split
    · exact append_reply p _ fend r
    · split
      · exact append_reply p _ fesc r
      · rfl
  rcases kfState_cases s with hk | hk | hk
  · rw [rxByte_waitFend p s b hk, ← hw]
    exact rxByte_waitFend p { s with reply := r } b hk
  · rw [rxByte_inFrame p s b hk, ← hi]
    exact rxByte_inFrame p { s with reply := r } b hk
  · rw [rxByte_escaped p s b hk, ← he]
    exact rxByte_escaped p { s with reply := r } b hk

theorem rxBytes_reply (bs : List Byte) (r : Reply) :
    rxBytes p bs { s with reply := r } = ({ (rxBytes p bs s).1 with reply := r }, (rxBytes p bs s).2) := by
  induction bs generalizing s with
  | nil => rfl
  | cons b t ih =>
    rw [rxBytes_cons, rxBytes_cons, rxByte_reply]
    dsimp only
    rw [ih]

/-! ### Registers -/

/-- A register number has a value exactly when R38 lists it. -/
theorem readReg_isSome (n : Byte) : (readReg n s).isSome = listedRegisters.contains n := by
  unfold readReg
  split <;> rename_i h <;> simp only [Option.isSome]
  case h_19 =>
    symm
    simp only [listedRegisters, List.contains_eq_mem, List.mem_cons, List.not_mem_nil, or_false, decide_eq_false_iff_not,
      not_or]
    refine ⟨?_, ?_, ?_, ?_, ?_, ?_, ?_, ?_, ?_, ?_, ?_, ?_, ?_, ?_, ?_, ?_, ?_, ?_⟩ <;> (rintro rfl; simp_all)
  all_goals
    have hn : n = BitVec.ofNat 8 n.toNat := by simp
    rw [h] at hn
    rw [hn]
    rfl

/-! ### The arbiter -/

theorem countDown_toNat (c : U32) : (countDown c).toNat = c.toNat - 1 := by
  unfold countDown
  split
  · rename_i h
    simp [h]
  · rename_i h
    have : c.toNat ≠ 0 := fun h0 => h (BitVec.eq_of_toNat_eq (by simpa using h0))
    have := c.isLt
    rw [BitVec.toNat_sub_of_le (by rw [BitVec.le_def]; simp; omega)]
    simp

theorem slotLoad_toNat (slot : U16) : (slotLoad slot).toNat = slot.toNat * 10 := by
  have := slot.isLt
  simp only [slotLoad, Config.slotUnitMs, BitVec.toNat_mul, BitVec.toNat_setWidth, BitVec.toNat_ofNat]
  omega

/-- A CA.CHECK is stuck, holds, grants, or starts a slot wait. -/
theorem execCaCheck_cases (r : Byte) :
    (s.caTxActive = true ∧ exec (.caCheck r) s = .fault .checkWhileTransmitting) ∨
    (s.caTxActive = false ∧ s.caSlotCnt ≠ 0 ∧ exec (.caCheck r) s = .next { s with reply := .held }) ∨
    (s.caTxActive = false ∧ s.caSlotCnt = 0 ∧ gateOpen r s = true ∧
      exec (.caCheck r) s = .next { s with caTxActive := true, reply := .done [] .grant }) ∨
    (s.caTxActive = false ∧ s.caSlotCnt = 0 ∧ gateOpen r s = false ∧
      exec (.caCheck r) s = .next { s with caSlotCnt := slotLoad s.caSlot, reply := .done [] .wait }) := by
  simp only [exec, execCaCheck, hold, finish]
  cases ht : s.caTxActive
  · by_cases h : s.caSlotCnt = 0
    · cases hg : gateOpen r s
      · exact .inr (.inr (.inr ⟨rfl, h, rfl, by rw [if_pos h]; rfl⟩))
      · exact .inr (.inr (.inl ⟨rfl, h, rfl, by rw [if_pos h]; rfl⟩))
    · exact .inr (.inl ⟨rfl, h, by rw [if_neg h]; rfl⟩)
  · exact .inl ⟨rfl, rfl⟩

end Sys2Proof.Machine
end

