-- ==== Sys2Proof/Laws/Kiss.lean ====
section
/-! SUPPORT. What the framer does with the bytes of a whole frame, and what a list of KF.RXBYTEs does. -/

namespace Sys2Proof.Machine

variable (p : Params) (s : State)

/-- A list of bytes written from index `n` on. -/
def memWrites : Memory → Nat → List Byte → Memory
  | m, _, [] => m
  | m, n, v :: t => memWrites (memWrite m n v) (n + 1) t

theorem memRead_memWrites (m : Memory) (n : Nat) (vs : List Byte) (a : Nat) :
    memRead (memWrites m n vs) a = if n ≤ a ∧ a < n + vs.length then vs[a - n]? else memRead m a := by
  induction vs generalizing m n with
  | nil =>
    rw [if_neg (by simp)]
    rfl
  | cons v t ih =>
    rw [memWrites, ih, memRead_memWrite]
    by_cases h0 : a = n
    · subst h0
      rw [if_neg (by omega), if_pos rfl, if_pos (by simp)]
      simp
    · by_cases h1 : n + 1 ≤ a ∧ a < n + 1 + t.length
      · rw [if_pos h1, if_pos (by simp; omega)]
        obtain ⟨k, hk⟩ : ∃ k, a - n = k + 1 := ⟨a - n - 1, by omega⟩
        rw [hk, List.getElem?_cons_succ]
        congr 1
        omega
      · rw [if_neg h1, if_neg h0, if_neg (by simp; omega)]

/-- The escaped form of one byte, received in a frame with room for it, appends that byte (R59, R81 to R85). -/
theorem rxBytes_esc (b : Byte) (hs : s.kfState = .inFrame) (hl : s.kfLen < p.rxCap) :
    rxBytes p (esc b) s = ({ s with
      kfBuf := memWrite s.kfBuf s.kfLen b, kfLen := s.kfLen + 1
      kfRxBytes := s.kfRxBytes + BitVec.ofNat 32 (esc b).length }, []) := by
  have hsame : { s with kfState := .inFrame } = s := by rw [← hs]
  have hesc : rxByte p fesc s = ({ countRx s with kfState := .escaped }, []) := by
    rw [rxByte_inFrame p s fesc hs]
    rfl
  have happ (v : Byte) : append p v (countRx { countRx s with kfState := .escaped }) = ({ s with
      kfBuf := memWrite s.kfBuf s.kfLen v, kfLen := s.kfLen + 1, kfState := .inFrame
      kfRxBytes := s.kfRxBytes + 1 + 1 }, []) := by
    unfold append
    rw [if_pos (by exact hl)]
    rfl
  have h2 : s.kfRxBytes + 1 + 1 = s.kfRxBytes + BitVec.ofNat 32 2 := by
    rw [BitVec.add_assoc]
    rfl
  unfold esc
  split
  · rename_i h
    rw [rxBytes_cons, rxBytes_cons, rxBytes_nil, hesc]
    dsimp only
    rw [rxByte_escaped p _ tfend rfl, rxEscaped, if_pos rfl, happ, h, ← hs, h2]
    rfl
  · split
    · rename_i h
      rw [rxBytes_cons, rxBytes_cons, rxBytes_nil, hesc]
      dsimp only
      rw [rxByte_escaped p _ tfesc rfl, rxEscaped, if_neg (by decide), if_pos rfl, happ, h, ← hs, h2]
      rfl
    · rename_i h1 h2
      rw [rxBytes_cons, rxBytes_nil, rxByte_inFrame p s b hs, rxInFrame, if_neg h1, if_neg h2]
      unfold append
      rw [if_pos (by exact hl), ← hs]
      rfl

/-- The escaped form of a list of bytes appends them in order while they fit. -/
theorem rxBytes_escs (bs : List Byte) (hs : s.kfState = .inFrame) (hl : s.kfLen + bs.length ≤ p.rxCap) :
    rxBytes p (bs.flatMap esc) s = ({ s with
      kfBuf := memWrites s.kfBuf s.kfLen bs, kfLen := s.kfLen + bs.length
      kfRxBytes := s.kfRxBytes + BitVec.ofNat 32 (bs.flatMap esc).length }, []) := by
  induction bs generalizing s with
  | nil => simp [memWrites]
  | cons b t ih =>
    simp only [List.length_cons] at hl
    rw [List.flatMap_cons, rxBytes_append, rxBytes_esc p s b hs (by omega)]
    dsimp only
    rw [ih]
    · simp only [memWrites, List.length_append, List.length_cons, BitVec.ofNat_add, List.append_nil]
      rw [BitVec.add_assoc, show s.kfLen + 1 + t.length = s.kfLen + (t.length + 1) by omega]
    · exact hs
    · dsimp only
      omega

/-- An opening FEND, from WaitFend or an empty InFrame, leaves InFrame with kf_len 0 (R76, R80). -/
theorem rxByte_open (hs : s.kfState = .waitFend ∨ (s.kfState = .inFrame ∧ s.kfLen = 0)) :
    ∃ buf, rxByte p fend s = ({ s with
      kfState := .inFrame, kfLen := 0, kfBuf := buf, kfRxBytes := s.kfRxBytes + 1 }, []) := by
  rcases hs with h | ⟨h, hl⟩
  · exact ⟨[], by rw [rxByte_waitFend p s fend h]; rfl⟩
  · refine ⟨s.kfBuf, ?_⟩
    rw [rxByte_inFrame p s fend h, rxInFrame, if_pos rfl, if_pos (by exact hl), ← h, ← hl]
    rfl

/-- The completing FEND when the buffer holds `c :: q` (R79). -/
theorem rxByte_complete (c : Byte) (q : List Byte) (hs : s.kfState = .inFrame) (hl : s.kfLen = q.length + 1)
    (hb : ∀ a, a ≤ q.length → memRead s.kfBuf a = (c :: q)[a]?) :
    rxByte p fend s = ({ s with
      kfState := .waitFend, kfRxBytes := s.kfRxBytes + 1, kfRxFrames := s.kfRxFrames + 1
      kfStat := completeStat p c s.kfStat }, completeEvents p c q) := by
  have h0 : bufByte (countRx s) 0 = c := by
    simp [bufByte, hb 0 (Nat.zero_le _)]
  have hp : bufPayload (countRx s) = q := by
    apply List.ext_getElem
    · simp [bufPayload, hl]
    · intro i h1 h2
      simp only [bufPayload, List.getElem_map, List.getElem_range, bufByte, countRx_kfBuf]
      rw [hb (i + 1) (by omega)]
      simp [List.getElem?_eq_getElem h2]
  rw [rxByte_inFrame p s fend hs, rxInFrame, if_pos rfl, if_neg (by simp [hl]), completeFrame, h0, hp]
  rfl

/-- A whole frame that fits, received from WaitFend or an empty InFrame, completes with its own contents (R99). -/
theorem rxBytes_wireFrame (c : Byte) (q : List Byte) (hs : s.kfState = .waitFend ∨ (s.kfState = .inFrame ∧ s.kfLen = 0))
    (hl : q.length + 1 ≤ p.rxCap) :
    ∃ buf, rxBytes p (wireFrame c q) s = ({ s with
        kfState := .waitFend, kfLen := q.length + 1, kfBuf := buf, kfStat := completeStat p c s.kfStat
        kfRxFrames := s.kfRxFrames + 1
        kfRxBytes := s.kfRxBytes + BitVec.ofNat 32 (wireFrame c q).length }, completeEvents p c q) ∧
      ∀ a, a ≤ q.length → memRead buf a = (c :: q)[a]? := by
  obtain ⟨buf, ho⟩ := rxByte_open p s hs
  have hread (a : Nat) (ha : a ≤ q.length) : memRead (memWrites buf 0 (c :: q)) a = (c :: q)[a]? := by
    rw [memRead_memWrites, if_pos (by simp; omega), Nat.sub_zero]
  refine ⟨memWrites buf 0 (c :: q), ?_, hread⟩
  have hw : wireFrame c q = fend :: ((c :: q).flatMap esc ++ [fend]) := by
    simp [wireFrame, List.append_assoc]
  rw [hw, rxBytes_cons, ho, rxBytes_append]
  dsimp only
  rw [rxBytes_escs p _ (c :: q) rfl (by simp; omega)]
  dsimp only
  rw [rxBytes_cons, rxBytes_nil, rxByte_complete p _ c q rfl (by simp) (by exact hread)]
  simp only [List.length_cons, List.length_append, List.length_nil, List.nil_append, List.append_nil, Nat.zero_add,
    BitVec.ofNat_add]
  congr 2
  simp only [BitVec.add_assoc]
  congr 1
  rw [BitVec.add_comm]
  simp only [BitVec.add_assoc]
  rfl

/-- Bytes but FEND in WaitFend: each 0x1B raises EXIT, the others only count (R77, R78). -/
theorem rxBytes_waitFend (bs : List Byte) (hs : s.kfState = .waitFend) (hb : fend ∉ bs) :
    rxBytes p bs s = ({ s with
        kfStat := if escSentinel ∈ bs then setExit s.kfStat else s.kfStat
        kfRxBytes := s.kfRxBytes + BitVec.ofNat 32 bs.length },
      List.replicate (bs.count escSentinel) .exit) := by
  induction bs generalizing s with
  | nil => simp
  | cons b t ih =>
    have h0 : b ≠ fend := fun h => hb (by simp [h])
    have ht : fend ∉ t := fun h => hb (List.mem_cons_of_mem _ h)
    have h1 : rxByte p b s = ({ s with
        kfStat := if b = escSentinel then setExit s.kfStat else s.kfStat
        kfRxBytes := s.kfRxBytes + 1 }, if b = escSentinel then [.exit] else []) := by
      rw [rxByte_waitFend p s b hs, rxWaitFend, if_neg h0]
      split <;> rfl
    rw [rxBytes_cons, h1]
    dsimp only
    rw [ih]
    rotate_left
    · exact hs
    · exact ht
    have hset : setExit (setExit s.kfStat) = setExit s.kfStat := by
      generalize s.kfStat = x
      revert x
      decide
    by_cases hb : b = escSentinel
    · subst hb
      simp only [if_true, hset, List.mem_cons, true_or, ite_self, List.count_cons_self, List.length_cons, BitVec.ofNat_add]
      refine Prod.ext ?_ ?_
      · simp only
        congr 1
        rw [BitVec.add_assoc, BitVec.add_comm 1]
        rfl
      · simp [List.replicate_succ]
    · simp only [if_neg hb, List.mem_cons, Ne.symm hb, false_or, List.length_cons, BitVec.ofNat_add]
      refine Prod.ext ?_ ?_
      · simp only
        congr 1
        rw [BitVec.add_assoc, BitVec.add_comm 1]
        rfl
      · simp [hb]

/-- A host byte without a KF_ERR event leaves ERRCODE, and no host byte writes the reserved bits of kf_stat (R24). -/
theorem rxByte_errCode (b : Byte) :
    ((∀ e, .kfErr e ∉ (rxByte p b s).2) → (rxByte p b s).1.errCode = s.errCode) ∧
      (rxByte p b s).1.statReserved = s.statReserved := by
  have key : ∀ st : Byte,
      (setExit st).extractLsb' 3 2 = st.extractLsb' 3 2 ∧ (setFrame st).extractLsb' 3 2 = st.extractLsb' 3 2 ∧
      (setExit st).extractLsb' 5 3 = st.extractLsb' 5 3 ∧ (setFrame st).extractLsb' 5 3 = st.extractLsb' 5 3 ∧
      ∀ e, (setErr e st).extractLsb' 5 3 = st.extractLsb' 5 3 := by
    intro st
    refine ⟨?_, ?_, ?_, ?_, fun e => ?_⟩
    any_goals (revert st; decide)
    cases e <;> (revert st; decide)
  obtain ⟨u, rfl, h⟩ := rxByte_cases p s b
  rcases h with h | ⟨-, -, h⟩ | ⟨-, -, h⟩ | ⟨-, -, -, h⟩ | ⟨-, -, h⟩ | ⟨v, -, -, h⟩ | ⟨e, -, h⟩ <;> rw [h]
  any_goals exact ⟨fun _ => rfl, rfl⟩
  · exact ⟨fun _ => (key _).1, (key _).2.2.1⟩
  · have hc (c : Byte) : (completeStat p c s.kfStat).extractLsb' 3 2 = s.kfStat.extractLsb' 3 2 ∧
        (completeStat p c s.kfStat).extractLsb' 5 3 = s.kfStat.extractLsb' 5 3 := by
      unfold completeStat
      dsimp only
      split <;> split <;> simp [key]
    exact ⟨fun _ => (hc _).1, (hc _).2⟩
  · exact ⟨fun hh => absurd (by simp [framingError]) (hh e), (key _).2.2.2.2 e⟩

theorem rxBytes_errCode (bs : List Byte) :
    ((∀ e, .kfErr e ∉ (rxBytes p bs s).2) → (rxBytes p bs s).1.errCode = s.errCode) ∧
      (rxBytes p bs s).1.statReserved = s.statReserved := by
  induction bs generalizing s with
  | nil => exact ⟨fun _ => rfl, rfl⟩
  | cons b t ih =>
    rw [rxBytes_cons]
    obtain ⟨i1, i2⟩ := ih (rxByte p b s).1
    obtain ⟨o1, o2⟩ := rxByte_errCode p s b
    refine ⟨fun h => ?_, i2.trans o2⟩
    rw [i1 fun e he => h e (List.mem_append_right _ he), o1 fun e he => h e (List.mem_append_left _ he)]

/-- One KF.RXBYTE for each byte does what the bytes do together (R72). -/
theorem runOps_feedOps (bs : List Byte) :
    ∃ rs r, runOps (feedOps bs) s = some (rs, { (rxBytes Config.params bs s).1 with reply := r }) ∧
      rs.flatMap Reply.events = (rxBytes Config.params bs s).2 := by
  induction bs generalizing s with
  | nil => exact ⟨[], s.reply, rfl, rfl⟩
  | cons b t ih =>
    obtain ⟨rs, r, h1, h2⟩ := ih { (rxByte Config.params b s).1 with reply := .done (rxByte Config.params b s).2 .none }
    rw [rxBytes_reply] at h1 h2
    refine ⟨.done (rxByte Config.params b s).2 .none :: rs, r, ?_, ?_⟩
    · rw [rxBytes_cons]
      show (runOps (feedOps t) _).map _ = _
      rw [show feedOps t = t.map .kfRxbyte from rfl] at h1 ⊢
      rw [h1]
      rfl
    · rw [rxBytes_cons, List.flatMap_cons, h2]
      rfl

/-- The first operation of a list answered a next state. -/
theorem runOps_cons_next (i : Instr) (more : List Instr) (t : State) (h : exec i s = .next t) :
    runOps (i :: more) s = (runOps more t).map fun k => (t.reply :: k.1, k.2) := by
  rw [runOps, h]

/-- Two lists of operations one after the other. -/
theorem runOps_append (x y : List Instr) (rs : List Reply) (t : State) (h : runOps x s = some (rs, t)) :
    runOps (x ++ y) s = (runOps y t).map fun k => (rs ++ k.1, k.2) := by
  induction x generalizing s rs with
  | nil =>
    obtain ⟨rfl, rfl⟩ : [] = rs ∧ s = t := by simpa [runOps] using h
    rw [List.nil_append]
    cases runOps y s <;> rfl
  | cons i z ih =>
    rw [runOps] at h
    rw [List.cons_append, runOps]
    cases he : exec i s with
    | next u =>
      rw [he] at h
      simp only at h ⊢
      cases hz : runOps z u with
      | none => rw [hz] at h; cases h
      | some k =>
        obtain ⟨ks, kt⟩ := k
        rw [hz] at h
        obtain ⟨rfl, rfl⟩ : u.reply :: ks = rs ∧ kt = t := by simpa using h
        rw [ih u ks hz]
        cases runOps y kt <;> rfl
    | fault f => rw [he] at h; cases h
    | refused r => rw [he] at h; cases h

end Sys2Proof.Machine
end

