-- ==== Sys2Proof/Laws/Exec.lean ====
section
/-! SUPPORT. Everything an instruction can do when it answers a next state, said once. -/

namespace Sys2Proof.Machine

variable (i : Instr) (s t : State)

/-- An instruction that feeds host bytes is the framer's receive operation on them. -/
theorem exec_hostBytes (bytes : List Byte) (h : hostBytes i = some bytes) :
    exec i s = .next { (rxBytes Config.params bytes s).1 with
      reply := .done (rxBytes Config.params bytes s).2 .none } := by
  cases i <;> simp only [hostBytes, Option.some.injEq, reduceCtorEq] at h <;> subst h <;>
    first
    | rfl
    | (rw [rxBytes_cons, rxBytes_nil, List.append_nil]; rfl)

/-- AX.PARSE answers a parse and moves no register; what it answers does not depend on the reply before it (R27). -/
theorem exec_axParse (buf : List Byte) (r : Reply) :
    ∃ f n, exec (.axParse buf) { s with reply := r } = .next { s with freeCtr := n, reply := .done [] (.parsed f) } ∧
      exec (.axParse buf) s = .next { s with freeCtr := n, reply := .done [] (.parsed f) } := by
  simp only [exec, execAxParse]
  split <;> exact ⟨_, _, rfl, rfl⟩

/-- The next states of every instruction: host bytes received; a reset; a write of the framer, its status or its transmit
counters; a write of crc_reg; a write of the arbiter; or nothing but the reply and the free-value counter. -/
theorem exec_next_cases (h : exec i s = .next t) :
    (∃ bytes, hostBytes i = some bytes ∧
      t = { (rxBytes Config.params bytes s).1 with reply := .done (rxBytes Config.params bytes s).2 .none }) ∨
    (i = .blkReset ∧ t = { resetBlock Config.params s with reply := .done [] .none }) ∨
    (i = .kfRxreset ∧ t = { idleFramer s with reply := .done [] .none }) ∨
    (∃ m, i = .kfClrstat m ∧ t = { s with kfStat := clearStat m s.kfStat, reply := .done [] .none }) ∨
    (∃ c p n, i = .kfEncode c p ∧ t = { s with
      kfTxFrames := s.kfTxFrames + 1, kfTxBytes := n, reply := .done [] (.bytes (wireFrame c p)) }) ∨
    (∃ c r, (i = .crcInit ∨ ∃ b, i = .crcByte b) ∧ t = { s with crcReg := c, reply := .done [] r }) ∨
    (∃ v, i = .caSetcfg 0 v ∧ t = { s with caPersist := v.setWidth 8, reply := .done [] .none }) ∨
    (∃ v, i = .caSetcfg 1 v ∧ t = { s with caSlot := v.setWidth 16, reply := .done [] .none }) ∨
    (∃ v, i = .caSetcfg 2 v ∧ t = { s with caDeaf := v, reply := .done [] .none }) ∨
    (∃ b, i = .caBusy b ∧ t = { s with
      caBusy := b, caLastRx := if b then s.caNow else s.caLastRx, reply := .done [] .none }) ∨
    (∃ r, i = .caCheck r ∧ s.caTxActive = false ∧ s.caSlotCnt ≠ 0 ∧ t = { s with reply := .held }) ∨
    (∃ r, i = .caCheck r ∧ s.caTxActive = false ∧ s.caSlotCnt = 0 ∧ gateOpen r s = true ∧
      t = { s with caTxActive := true, reply := .done [] .grant }) ∨
    (∃ r, i = .caCheck r ∧ s.caTxActive = false ∧ s.caSlotCnt = 0 ∧ gateOpen r s = false ∧
      t = { s with caSlotCnt := slotLoad s.caSlot, reply := .done [] .wait }) ∨
    (i = .caTxdone ∧ s.caTxActive = true ∧ t = { s with
      caTxActive := false, caLastTx := s.caNow, caDeafCnt := s.caDeaf, reply := .done [] .none }) ∨
    (i = .caTick ∧ t = { tick s with reply := .done [] .none }) ∨
    (hostBytes i = none ∧ i ≠ .caTick ∧ ∃ k r, t = { s with freeCtr := k, reply := .done [] r }) := by
  cases hb : hostBytes i with
  | some bytes =>
    rw [exec_hostBytes i s bytes hb] at h
    cases h
    exact .inl ⟨bytes, rfl, rfl⟩
  | none =>
    refine .inr ?_
    cases i with
    | blkReset => cases h; exact .inl ⟨rfl, rfl⟩
    | kfRxreset => cases h; exact .inr (.inl ⟨rfl, rfl⟩)
    | kfClrstat m => cases h; exact .inr (.inr (.inl ⟨m, rfl, rfl⟩))
    | kfEncode c p => cases h; exact .inr (.inr (.inr (.inl ⟨c, p, _, rfl, rfl⟩)))
    | crcInit => cases h; exact .inr (.inr (.inr (.inr (.inl ⟨_, _, .inl rfl, rfl⟩))))
    | crcByte b => cases h; exact .inr (.inr (.inr (.inr (.inl ⟨_, _, .inr ⟨b, rfl⟩, rfl⟩))))
    | caSetcfg sel v =>
      simp only [exec, execCaSetcfg, finish] at h
      refine .inr (.inr (.inr (.inr (.inr ?_))))
      split at h
      · rename_i h0
        split at h
        · cases h; exact .inl ⟨v, by rw [h0], rfl⟩
        · cases h
      · split at h
        · rename_i h0
          split at h
          · cases h; exact .inr (.inl ⟨v, by rw [h0], rfl⟩)
          · cases h
        · split at h
          · rename_i h0
            cases h; exact .inr (.inr (.inl ⟨v, by rw [h0], rfl⟩))
          · cases h
    | caBusy b => cases h; exact .inr (.inr (.inr (.inr (.inr (.inr (.inr (.inr (.inl ⟨b, rfl, rfl⟩))))))))
    | caCheck r =>
      refine .inr (.inr (.inr (.inr (.inr (.inr (.inr (.inr (.inr ?_))))))))
      rcases execCaCheck_cases s r with ⟨-, he⟩ | ⟨h1, h2, he⟩ | ⟨h1, h2, h3, he⟩ | ⟨h1, h2, h3, he⟩ <;> rw [he] at h <;>
        cases h
      · exact .inl ⟨r, rfl, h1, h2, rfl⟩
      · exact .inr (.inl ⟨r, rfl, h1, h2, h3, rfl⟩)
      · exact .inr (.inr (.inl ⟨r, rfl, h1, h2, h3, rfl⟩))
    | caTxdone =>
      simp only [exec, execCaTxdone, finish] at h
      split at h
      · cases h
        exact .inr (.inr (.inr (.inr (.inr (.inr (.inr (.inr (.inr (.inr (.inr (.inr (.inl ⟨rfl, ‹_›, rfl⟩))))))))))))
      · cases h
    | caTick => cases h; exact .inr (.inr (.inr (.inr (.inr (.inr (.inr (.inr (.inr (.inr (.inr (.inr (.inr (.inl ⟨rfl, rfl⟩)))))))))))))
    | blkRdreg n =>
      simp only [exec, execBlkRdreg, finish] at h
      split at h <;> cases h
      exact .inr (.inr (.inr (.inr (.inr (.inr (.inr (.inr (.inr (.inr (.inr (.inr (.inr (.inr ⟨rfl, nofun, _, _, rfl⟩)))))))))))))
    | axUnpackaddr f =>
      simp only [exec, execAxUnpackaddr, finish] at h
      split at h <;> cases h
      exact .inr (.inr (.inr (.inr (.inr (.inr (.inr (.inr (.inr (.inr (.inr (.inr (.inr (.inr ⟨rfl, nofun, _, _, rfl⟩)))))))))))))
    | axParse buf =>
      simp only [exec, execAxParse, finish] at h
      split at h <;> cases h <;>
        exact .inr (.inr (.inr (.inr (.inr (.inr (.inr (.inr (.inr (.inr (.inr (.inr (.inr (.inr ⟨rfl, nofun, _, _, rfl⟩)))))))))))))
    | axEncodeui dest src digis p =>
      simp only [exec, execAxEncodeui, finish] at h
      split at h <;> cases h
      exact .inr (.inr (.inr (.inr (.inr (.inr (.inr (.inr (.inr (.inr (.inr (.inr (.inr (.inr ⟨rfl, nofun, _, _, rfl⟩)))))))))))))
    | axPackaddr _ _ | crcCalc _ | caRxok | ax25ControlUi | ax25PidNone | ax25SsidByte _ _ | ax25CallByte _ =>
      cases h
      exact .inr (.inr (.inr (.inr (.inr (.inr (.inr (.inr (.inr (.inr (.inr (.inr (.inr (.inr ⟨rfl, nofun, _, _, rfl⟩)))))))))))))
    | kfRxbyte _ | kissReturn _ | kissData _ _ | kissTxDelay _ _ | kissPersistence _ _ | kissSlotTime _ _
    | kissTxTail _ _ | kissFullDuplex _ _ | kissSetHardware _ _ | kissUnknown7 _ _ | kissUnknownHigh _ _ _ | kissByteFend
    | kissByteFesc | kissByteTfend | kissByteTfesc | kissByteEsc | sethwSetFrequency _ _ | sethwSetBandwidth _ _
    | sethwSetSpreading _ _ | sethwSetCodingRate _ _ | sethwSetPower _ _ | sethwGetConfig _ _ | sethwSaveConfig _ _
    | sethwResetConfig _ _ | sethwSetSyncWord _ _ => cases hb

end Sys2Proof.Machine
end

