-- ==== Sys2Proof/Laws/PerInstr.lean ====
section
/-! SUPPORT. One family of statements per instruction: the first byte of every encoding carries the fixed bits of its row of
spec/opcode_table.json. -/

namespace Sys2Proof.Laws.RowBits

/-- The mask and the match of an instruction's row, as spec/opcode_table.json gives them. -/
def row : Instr → Byte × Byte
  | .blkReset => (0xFF, 0x00)
  | .blkRdreg _ => (0xFF, 0x01)
  | .kfRxbyte _ => (0xFF, 0x10)
  | .kfRxreset => (0xFF, 0x11)
  | .kfClrstat _ => (0xFF, 0x12)
  | .kfEncode _ _ => (0xFF, 0x13)
  | .axPackaddr _ _ => (0xFF, 0x20)
  | .axUnpackaddr _ => (0xFF, 0x21)
  | .axParse _ => (0xFF, 0x22)
  | .axEncodeui _ _ _ _ => (0xFF, 0x23)
  | .crcInit => (0xFF, 0x30)
  | .crcByte _ => (0xFF, 0x31)
  | .crcCalc _ => (0xFF, 0x32)
  | .caSetcfg _ _ => (0xFF, 0x40)
  | .caBusy _ => (0xFF, 0x41)
  | .caCheck _ => (0xFF, 0x42)
  | .caTxdone => (0xFF, 0x43)
  | .caTick => (0xFF, 0x44)
  | .caRxok => (0xFF, 0x45)
  | .kissReturn _ => (0xFF, 0xFF)
  | .kissData _ _ => (0x0F, 0x00)
  | .kissTxDelay _ _ => (0x0F, 0x01)
  | .kissPersistence _ _ => (0x0F, 0x02)
  | .kissSlotTime _ _ => (0x0F, 0x03)
  | .kissTxTail _ _ => (0x0F, 0x04)
  | .kissFullDuplex _ _ => (0x0F, 0x05)
  | .kissSetHardware _ _ => (0x0F, 0x06)
  | .kissUnknown7 _ _ => (0x0F, 0x07)
  | .kissUnknownHigh _ _ _ => (0x08, 0x08)
  | .kissByteFend => (0xFF, 0xC0)
  | .kissByteFesc => (0xFF, 0xDB)
  | .kissByteTfend => (0xFF, 0xDC)
  | .kissByteTfesc => (0xFF, 0xDD)
  | .kissByteEsc => (0xFF, 0x1B)
  | .sethwSetFrequency _ _ => (0xFF, 0x01)
  | .sethwSetBandwidth _ _ => (0xFF, 0x02)
  | .sethwSetSpreading _ _ => (0xFF, 0x03)
  | .sethwSetCodingRate _ _ => (0xFF, 0x04)
  | .sethwSetPower _ _ => (0xFF, 0x05)
  | .sethwGetConfig _ _ => (0xFF, 0x06)
  | .sethwSaveConfig _ _ => (0xFF, 0x07)
  | .sethwResetConfig _ _ => (0xFF, 0x08)
  | .sethwSetSyncWord _ _ => (0xFF, 0x09)
  | .ax25ControlUi => (0xFF, 0x03)
  | .ax25PidNone => (0xFF, 0xF0)
  | .ax25SsidByte _ _ => (0xE0, 0x60)
  | .ax25CallByte _ => (0x01, 0x00)

/-- The first encoded byte has the row's bits. -/
def Statement (i : Instr) : Prop := ∃ b t, encode i = b :: t ∧ b &&& (row i).1 = (row i).2

theorem full_bits (b : Byte) : b &&& 0xFF = b := by
  revert b; decide

theorem command_bits (port code : BitVec 4) : commandByte port code &&& 0x0F = code.setWidth 8 := by
  revert port code; decide

theorem unknown_bits (port : BitVec 4) (low : BitVec 3) : commandByte port (1#1 ++ low) &&& 0x08 = 0x08 := by
  revert port low; decide

theorem ssid_bits (ssid : BitVec 4) (ext : Bool) : ssidByte ssid ext &&& 0xE0 = 0x60 := by
  revert ssid ext; decide

theorem call_bits (ch : BitVec 7) : callByte (ch.setWidth 8) &&& 0x01 = 0x00 := by
  revert ch; decide

theorem blkReset : Statement .blkReset := ⟨_, _, rfl, full_bits _⟩
theorem blkRdreg (n : Byte) : Statement (.blkRdreg n) := ⟨_, _, rfl, full_bits _⟩
theorem kfRxbyte (b : Byte) : Statement (.kfRxbyte b) := ⟨_, _, rfl, full_bits _⟩
theorem kfRxreset : Statement .kfRxreset := ⟨_, _, rfl, full_bits _⟩
theorem kfClrstat (m : Byte) : Statement (.kfClrstat m) := ⟨_, _, rfl, full_bits _⟩
theorem kfEncode (c : Byte) (p : List Byte) : Statement (.kfEncode c p) := ⟨_, _, rfl, full_bits _⟩
theorem axPackaddr (a : Addr) (last : Bool) : Statement (.axPackaddr a last) := ⟨_, _, rfl, full_bits _⟩
theorem axUnpackaddr (f : List Byte) : Statement (.axUnpackaddr f) := ⟨_, _, rfl, full_bits _⟩
theorem axParse (buf : List Byte) : Statement (.axParse buf) := ⟨_, _, rfl, full_bits _⟩
theorem axEncodeui (dest : Addr) (src : Addr) (digis : List Addr) (p : List Byte) : Statement (.axEncodeui dest src digis p) := ⟨_, _, rfl, full_bits _⟩
theorem crcInit : Statement .crcInit := ⟨_, _, rfl, full_bits _⟩
theorem crcByte (b : Byte) : Statement (.crcByte b) := ⟨_, _, rfl, full_bits _⟩
theorem crcCalc (buf : List Byte) : Statement (.crcCalc buf) := ⟨_, _, rfl, full_bits _⟩
theorem caSetcfg (sel : Byte) (v : U32) : Statement (.caSetcfg sel v) := ⟨_, _, rfl, full_bits _⟩
theorem caBusy (b : Bool) : Statement (.caBusy b) := ⟨_, _, rfl, full_bits _⟩
theorem caCheck (r : Byte) : Statement (.caCheck r) := ⟨_, _, rfl, full_bits _⟩
theorem caTxdone : Statement .caTxdone := ⟨_, _, rfl, full_bits _⟩
theorem caTick : Statement .caTick := ⟨_, _, rfl, full_bits _⟩
theorem caRxok : Statement .caRxok := ⟨_, _, rfl, full_bits _⟩
theorem kissReturn (p : List Byte) : Statement (.kissReturn p) := ⟨_, _, rfl, full_bits _⟩
theorem kissData (port : BitVec 4) (p : List Byte) : Statement (.kissData port p) := ⟨_, _, rfl, command_bits port _⟩
theorem kissTxDelay (port : BitVec 4) (p : List Byte) : Statement (.kissTxDelay port p) := ⟨_, _, rfl, command_bits port _⟩
theorem kissPersistence (port : BitVec 4) (p : List Byte) : Statement (.kissPersistence port p) := ⟨_, _, rfl, command_bits port _⟩
theorem kissSlotTime (port : BitVec 4) (p : List Byte) : Statement (.kissSlotTime port p) := ⟨_, _, rfl, command_bits port _⟩
theorem kissTxTail (port : BitVec 4) (p : List Byte) : Statement (.kissTxTail port p) := ⟨_, _, rfl, command_bits port _⟩
theorem kissFullDuplex (port : BitVec 4) (p : List Byte) : Statement (.kissFullDuplex port p) := ⟨_, _, rfl, command_bits port _⟩
theorem kissSetHardware (port : BitVec 4) (p : List Byte) : Statement (.kissSetHardware port p) := ⟨_, _, rfl, command_bits port _⟩
theorem kissUnknown7 (port : BitVec 4) (p : List Byte) : Statement (.kissUnknown7 port p) := ⟨_, _, rfl, command_bits port _⟩
theorem kissUnknownHigh (port : BitVec 4) (low : BitVec 3) (p : List Byte) : Statement (.kissUnknownHigh port low p) := ⟨_, _, rfl, unknown_bits port low⟩
theorem kissByteFend : Statement .kissByteFend := ⟨_, _, rfl, full_bits _⟩
theorem kissByteFesc : Statement .kissByteFesc := ⟨_, _, rfl, full_bits _⟩
theorem kissByteTfend : Statement .kissByteTfend := ⟨_, _, rfl, full_bits _⟩
theorem kissByteTfesc : Statement .kissByteTfesc := ⟨_, _, rfl, full_bits _⟩
theorem kissByteEsc : Statement .kissByteEsc := ⟨_, _, rfl, full_bits _⟩
theorem sethwSetFrequency (port : BitVec 4) (args : List Byte) : Statement (.sethwSetFrequency port args) := ⟨_, _, rfl, full_bits _⟩
theorem sethwSetBandwidth (port : BitVec 4) (args : List Byte) : Statement (.sethwSetBandwidth port args) := ⟨_, _, rfl, full_bits _⟩
theorem sethwSetSpreading (port : BitVec 4) (args : List Byte) : Statement (.sethwSetSpreading port args) := ⟨_, _, rfl, full_bits _⟩
theorem sethwSetCodingRate (port : BitVec 4) (args : List Byte) : Statement (.sethwSetCodingRate port args) := ⟨_, _, rfl, full_bits _⟩
theorem sethwSetPower (port : BitVec 4) (args : List Byte) : Statement (.sethwSetPower port args) := ⟨_, _, rfl, full_bits _⟩
theorem sethwGetConfig (port : BitVec 4) (args : List Byte) : Statement (.sethwGetConfig port args) := ⟨_, _, rfl, full_bits _⟩
theorem sethwSaveConfig (port : BitVec 4) (args : List Byte) : Statement (.sethwSaveConfig port args) := ⟨_, _, rfl, full_bits _⟩
theorem sethwResetConfig (port : BitVec 4) (args : List Byte) : Statement (.sethwResetConfig port args) := ⟨_, _, rfl, full_bits _⟩
theorem sethwSetSyncWord (port : BitVec 4) (args : List Byte) : Statement (.sethwSetSyncWord port args) := ⟨_, _, rfl, full_bits _⟩
theorem ax25ControlUi : Statement .ax25ControlUi := ⟨_, _, rfl, full_bits _⟩
theorem ax25PidNone : Statement .ax25PidNone := ⟨_, _, rfl, full_bits _⟩
theorem ax25SsidByte (ext : Bool) (ssid : BitVec 4) : Statement (.ax25SsidByte ext ssid) := ⟨_, _, rfl, ssid_bits ssid ext⟩
theorem ax25CallByte (ch : BitVec 7) : Statement (.ax25CallByte ch) := ⟨_, _, rfl, call_bits ch⟩

end Sys2Proof.Laws.RowBits
end

