-- ==== Sys2Proof/Tests/Slice0.lean ====
section
/-! SUPPORT. The model's own tests. Expected values are those of spec/95_test_vectors.md (its vector ids stand in the comments) and of the
encoding tables of spec/30_encoding.md. A `witness_` theorem shows that the hypotheses of an obligation can be met. -/

namespace Sys2Proof.Tests

open Sys2Proof.Machine

/-! ### Helpers -/

/-- Reset, then CA.SETCFG 0, 63 and CA.SETCFG 1, 10: the start state of the vectors of L2.5. -/
def base : State := { State.reset with caPersist := 63, caSlot := 10 }

/-- RXCAP = 512 and RETURN_EMITS_FRAME = false: the parameters of the vectors. -/
def params : Params := ⟨0, false, 0, 0⟩

/-- RETURN_EMITS_FRAME = true. -/
def paramsEmit : Params := ⟨0, true, 0, 0⟩

/-- A reading of the next state, if there is one. -/
def after {α : Type} (o : Out) (f : State → α) : Option α :=
  match o with
  | .next t => some (f t)
  | .fault _ | .refused _ => none

/-- The fault of an operation that is stuck. -/
def stuckBy (o : Out) : Option Fault :=
  match o with
  | .fault f => some f
  | .next _ | .refused _ => none

/-- The refusal of an operation that has no meaning. -/
def refusedBy (o : Out) : Option Refusal :=
  match o with
  | .refused r => some r
  | .next _ | .fault _ => none

/-- Events and framer registers after host bytes from reset, at the vectors' parameters. -/
def fed (bytes : List Byte) : List Event × KfState × Nat × Byte :=
  let k := rxBytes params bytes base
  (k.2, k.1.kfState, k.1.kfLen, k.1.kfStat)

/-- "APRS" -/
def aprs : Addr := ⟨[0x41, 0x50, 0x52, 0x53], 0⟩

/-- "N0CALL-9" -/
def n0call : Addr := ⟨[0x4E, 0x30, 0x43, 0x41, 0x4C, 0x4C], 9⟩

/-- "WIDE1-1" -/
def wide1 : Addr := ⟨[0x57, 0x49, 0x44, 0x45, 0x31], 1⟩

/-- "WIDE2-2" -/
def wide2 : Addr := ⟨[0x57, 0x49, 0x44, 0x45, 0x32], 2⟩

/-- The 19-byte frame of vector L1-7. -/
def frameL17 : List Byte :=
  [0x82, 0xA0, 0xA4, 0xA6, 0x40, 0x40, 0x60, 0x9C, 0x60, 0x86, 0x82, 0x98, 0x98, 0x73, 0x03, 0xF0, 0x21, 0x8B, 0x3B]

/-! ### Well-formedness: an ill-formed term for each check -/

theorem test_wf_field7 : (Instr.axUnpackaddr [0x40, 0x40, 0x40, 0x40, 0x40, 0x40]).wf = false := by decide
theorem test_wf_unknown_not_return : (Instr.kissUnknownHigh 15 7 []).wf = false := by decide
theorem test_wf_register : ([0x08, 0x11, 0x29, 0xFF] : List Byte).all (fun n => !(Instr.blkRdreg n).wf) = true := by decide
theorem test_wf_setcfg_persist : (Instr.caSetcfg 0 256).wf = false := by decide
theorem test_wf_setcfg_slot : (Instr.caSetcfg 1 65536).wf = false := by decide
theorem test_wf_setcfg_selector : (Instr.caSetcfg 3 0).wf = false := by decide
theorem test_wf_digis : (Instr.axEncodeui aprs n0call (List.replicate 9 wide1) []).wf = false := by decide
theorem test_wf_accepts :
    (Instr.caSetcfg 0 255).wf && (Instr.caSetcfg 1 65535).wf && (Instr.caSetcfg 2 0xFFFFFFFF).wf &&
      (Instr.axEncodeui aprs n0call (List.replicate 8 wide1) []).wf && (Instr.kissUnknownHigh 15 6 []).wf &&
      (Instr.kissUnknownHigh 14 7 []).wf = true := by decide

/-! ### Decoding: words written out from R69, R58, R61, R62, R64, R65, R66 and R68 -/

theorem test_decode_blk :
    decode .op [0x00] = .ok .blkReset [] ∧ decode .op [0x01, 0x23] = .ok (.blkRdreg 0x23) [] := by decide
theorem test_decode_kf :
    decode .op [0x10, 0xDB] = .ok (.kfRxbyte 0xDB) [] ∧ decode .op [0x11] = .ok .kfRxreset [] ∧
      decode .op [0x12, 0x01] = .ok (.kfClrstat 0x01) [] ∧
      decode .op [0x13, 0x00, 1, 0xC0, 0] = .ok (.kfEncode 0x00 [0xC0]) [] := by decide
theorem test_decode_ax :
    decode .op [0x20, 1, 0x43, 1, 0x51, 0, 9, 1] = .ok (.axPackaddr ⟨[0x43, 0x51], 9⟩ true) [] ∧
      decode .op [0x21, 0x9C, 0x60, 0x86, 0x82, 0x98, 0x98, 0x73] =
        .ok (.axUnpackaddr [0x9C, 0x60, 0x86, 0x82, 0x98, 0x98, 0x73]) [] ∧
      decode .op [0x22, 1, 0x82, 0] = .ok (.axParse [0x82]) [] ∧
      decode .op [0x23, 1, 0x41, 0, 1, 1, 0x42, 0, 2, 1, 1, 0x43, 0, 3, 0, 1, 0x21, 0] =
        .ok (.axEncodeui ⟨[0x41], 1⟩ ⟨[0x42], 2⟩ [⟨[0x43], 3⟩] [0x21]) [] := by decide
theorem test_decode_crc :
    decode .op [0x30] = .ok .crcInit [] ∧ decode .op [0x31, 0x41] = .ok (.crcByte 0x41) [] ∧
      decode .op [0x32, 1, 0x48, 1, 0x69, 0] = .ok (.crcCalc [0x48, 0x69]) [] := by decide
/-- Program P2, steps 1, 10, 11. -/
theorem test_decode_ca :
    decode .op [0x40, 0x00, 0x3F, 0, 0, 0] = .ok (.caSetcfg 0 63) [] ∧ decode .op [0x41, 0x01] = .ok (.caBusy true) [] ∧
      decode .op [0x42, 0x80] = .ok (.caCheck 0x80) [] ∧ decode .op [0x43] = .ok .caTxdone [] ∧
      decode .op [0x44] = .ok .caTick [] ∧ decode .op [0x45] = .ok .caRxok [] := by decide
theorem test_decode_kiss_cmd :
    decode .kissCmd [0xFF, 0] = .ok (.kissReturn []) [] ∧ decode .kissCmd [0x10, 1, 0x41, 0] = .ok (.kissData 1 [0x41]) [] ∧
      decode .kissCmd [0x01, 1, 0x32, 0] = .ok (.kissTxDelay 0 [0x32]) [] ∧
      decode .kissCmd [0xF2, 0] = .ok (.kissPersistence 15 []) [] ∧ decode .kissCmd [0x03, 0] = .ok (.kissSlotTime 0 []) [] ∧
      decode .kissCmd [0x14, 0] = .ok (.kissTxTail 1 []) [] ∧ decode .kissCmd [0x05, 0] = .ok (.kissFullDuplex 0 []) [] ∧
      decode .kissCmd [0x26, 0] = .ok (.kissSetHardware 2 []) [] ∧ decode .kissCmd [0xC7, 0] = .ok (.kissUnknown7 12 []) [] ∧
      decode .kissCmd [0x1F, 0] = .ok (.kissUnknownHigh 1 7 []) [] ∧
      decode .kissCmd [0x08, 0] = .ok (.kissUnknownHigh 0 0 []) [] := by decide
theorem test_decode_kiss_byte :
    decode .kissByte [0xC0] = .ok .kissByteFend [] ∧ decode .kissByte [0xDB] = .ok .kissByteFesc [] ∧
      decode .kissByte [0xDC] = .ok .kissByteTfend [] ∧ decode .kissByte [0xDD] = .ok .kissByteTfesc [] ∧
      decode .kissByte [0x1B] = .ok .kissByteEsc [] := by decide
theorem test_decode_sethw :
    decode .sethwSub [0x01, 0, 0] = .ok (.sethwSetFrequency 0 []) [] ∧
      decode .sethwSub [0x02, 0, 0] = .ok (.sethwSetBandwidth 0 []) [] ∧
      decode .sethwSub [0x03, 0, 1, 9, 0] = .ok (.sethwSetSpreading 0 [9]) [] ∧
      decode .sethwSub [0x04, 0, 0] = .ok (.sethwSetCodingRate 0 []) [] ∧
      decode .sethwSub [0x05, 0, 0] = .ok (.sethwSetPower 0 []) [] ∧ decode .sethwSub [0x06, 0, 0] = .ok (.sethwGetConfig 0 []) [] ∧
      decode .sethwSub [0x07, 0, 0] = .ok (.sethwSaveConfig 0 []) [] ∧
      decode .sethwSub [0x08, 0, 0] = .ok (.sethwResetConfig 0 []) [] ∧
      decode .sethwSub [0x09, 15, 0] = .ok (.sethwSetSyncWord 15 []) [] ∧
      decode .sethwSub [0x00, 0, 0] = .ok (.kissSetHardware 0 [0x00]) [] ∧
      decode .sethwSub [0x0A, 2, 1, 7, 0] = .ok (.kissSetHardware 2 [0x0A, 7]) [] := by decide
theorem test_decode_ax_field :
    decode (.axField .control) [0x03] = .ok .ax25ControlUi [] ∧ decode (.axField .pid) [0xF0] = .ok .ax25PidNone [] ∧
      decode (.axField .ssid) [0x73] = .ok (.ax25SsidByte true 9) [] ∧
      decode (.axField .call) [0x82] = .ok (.ax25CallByte 0x41) [] := by decide
/-- BLK-8, and operands that are not of their type. -/
theorem test_decode_refuses :
    decode .op [0x02] = .bad (.reservedOpcode 0x02) ∧ decode .op [0x14] = .bad (.reservedOpcode 0x14) ∧
      decode .op [0x46] = .bad (.reservedOpcode 0x46) ∧ decode .op [0x41, 0x02] = .bad (.badBool 0x02) ∧
      decode .op [0x13, 0x00, 2] = .bad (.badMarker 2) ∧ decode .op [0x42] = .bad .truncated ∧
      decode (.axField .ssid) [0xE2] = .bad (.badField .ssid 0xE2) ∧
      decode .sethwSub [0x01, 16, 0] = .bad (.badPort 16) ∧
      decode (.axField .call) [0x83] = .bad (.badField .call 0x83) := by decide
theorem test_table_words :
    decodeTableWord 8 0x45 = some .caRxok ∧ decodeTableWord 8 0xC0 = some .kissByteFend ∧
      decodeTableWord 8 0x09 = some (.sethwSetSyncWord 0 []) ∧ decodeTableWord 8 0x50 = some (.kissData 5 []) ∧
      decodeTableWord 8 0xFF = some (.kissReturn []) ∧ decodeTableWord 8 0xF0 = some .ax25PidNone ∧
      decodeTableWord 8 0x60 = some (.ax25SsidByte false 0) := by decide
/-- A table word placed at the next transfer runs as the first operation after reset: CA.TICK from the timer agent. -/
theorem test_first_step :
    after (step (State.reset.withFetchWord 8 0x44)) (fun t => (t.caNow, t.timerIn.length, t.sched)) = some (1, 16, []) ∧
      stuckBy (step (State.reset.withFetchWord 8 0x43)) = some .txDoneWithoutGrant := by decide

/-! ### BLK -/

/-- BLK-1. -/
theorem test_blk_reset :
    after (exec .blkReset { base with crcReg := 1, kfStat := 0x13, caTxActive := true, caDeaf := 0 })
      (fun t => (t.crcReg, t.caStatus, t.caDeaf, t.kfState.enc, t.kfStat)) = some (0xFFFF, 4, 2000, 0, 0) := by decide
/-- BLK-4, BLK-2. -/
theorem test_blk_rdreg :
    after (exec (.blkRdreg 0x00) { base with kfState := .escaped }) (fun t => t.reply) = some (.done [] (.u32 2)) ∧
      refusedBy (exec (.blkRdreg 0x08) base) = some (.reservedRegister 0x08) := by decide
/-- CA-14: CA_STATUS with busy and transmitting. -/
theorem test_ca_status :
    after (exec (.blkRdreg 0x23) { base with caBusy := true, caTxActive := true }) (fun t => t.reply) =
      some (.done [] (.u32 3)) := by decide

/-! ### KF -/

/-- L1-11. -/
theorem test_kf_frame :
    fed [0xC0, 0x00, 0x41, 0x42, 0xC0] = ([.frame 0 .data 0x00 [0x41, 0x42]], .waitFend, 3, 0x04) := by decide
/-- KF-3: the command byte itself is escaped. -/
theorem test_kf_escaped_command :
    fed [0xC0, 0xDB, 0xDC, 0x41, 0xC0] = ([.frame 12 .data 0xC0 [0x41]], .waitFend, 2, 0x04) := by decide
/-- KF-12: the FEND after FESC is consumed by the error. -/
theorem test_kf_bad_escape :
    fed [0xC0, 0x00, 0xDB, 0xC0, 0xC0, 0x00, 0x41, 0xC0] =
      ([.kfErr .badEsc, .frame 0 .data 0x00 [0x41]], .waitFend, 2, 0x16) := by decide
/-- KF-13: 0x1B left over from an aborted frame. -/
theorem test_kf_exit_after_error :
    fed [0xC0, 0x00, 0xDB, 0x41, 0x1B] = ([.kfErr .badEsc, .exit], .waitFend, 0, 0x13) := by decide
/-- KF-6: a shared FEND loses the second frame. -/
theorem test_kf_shared_fend :
    fed [0xC0, 0x00, 0x41, 0xC0, 0x00, 0x42, 0xC0] = ([.frame 0 .data 0x00 [0x41]], .inFrame, 0, 0x04) := by decide
/-- L1-13, KF-24: Return with either value of RETURN_EMITS_FRAME. -/
theorem test_kf_return :
    fed [0xC0, 0xFF, 0xC0] = ([.exit], .waitFend, 1, 0x01) ∧
      (rxBytes paramsEmit [0xC0, 0xFF, 0xC0] base).2 = [.frame 15 .ret 0xFF [], .exit] ∧
      (rxBytes paramsEmit [0xC0, 0xFF, 0xC0] base).1.kfStat = 0x05 := by decide
/-- KF-16: the byte after RXCAP bytes overflows. -/
theorem test_kf_overflow :
    (rxByte params 0x55 { base with kfState := .inFrame, kfLen := 512 }).2 = [.kfErr .overflow] ∧
      (rxByte params 0x55 { base with kfState := .inFrame, kfLen := 512 }).1.kfStat = 0x0A ∧
      (rxByte params 0x55 { base with kfState := .inFrame, kfLen := 511 }).1.kfLen = 512 := by decide
/-- KF-19: the capacity check applies to escaped bytes. -/
theorem test_kf_overflow_escaped :
    (rxByte params 0xDC { base with kfState := .escaped, kfLen := 512 }).2 = [.kfErr .overflow] ∧
      (rxByte params 0xDC { base with kfState := .escaped, kfLen := 512 }).1.kfState = .waitFend := by decide
/-- L1-8, KF-20. -/
theorem test_kf_rxreset :
    after (exec .kfRxreset { base with kfState := .escaped, kfLen := 7, kfStat := 0x13 })
      (fun t => (t.kfState, t.kfLen, t.kfStat)) = some (.waitFend, 0, 0x13) := by decide
/-- KF-21, KF-22, KF-23. -/
theorem test_kf_clrstat :
    clearStat 0x02 0x16 = 0x04 ∧ clearStat 0x01 0x13 = 0x12 ∧ clearStat 0xF8 0x17 = 0x17 ∧
      after (exec (.kfClrstat 0x01) { base with kfStat := 0x0F }) (fun t => t.kfStat) = some 0x0E := by decide
/-- KE-7, BLK-9. -/
theorem test_kf_encode :
    after (exec (.kfEncode 0xDB [0xC0, 0xDB]) base) (fun t => (t.reply, t.kfTxFrames, t.kfTxBytes)) =
      some (.done [] (.bytes [0xC0, 0xDB, 0xDD, 0xDB, 0xDC, 0xDB, 0xDD, 0xC0]), 1, 8) := by decide
/-- KE-4: TFEND and TFESC are not escaped. -/
theorem test_kf_encode_literal :
    wireFrame 0x00 [0xDB, 0xDC, 0xDD] = [0xC0, 0x00, 0xDB, 0xDD, 0xDC, 0xDD, 0xC0] := by decide
/-- The composition line of L2.2. -/
theorem test_compose :
    compose 1 .data = .byte 0x10 ∧ compose 2 .setHardware = .byte 0x26 ∧ compose 15 .persistence = .byte 0xF2 ∧
      compose 3 .ret = .byte 0xFF ∧ compose 16 .data = .refused ∧ compose 0 .unknown = .undefined := by decide

/-! ### KISS rows -/

/-- KF-9, KF-8: the row's wire bytes give the frame. -/
theorem test_kiss_rows :
    hostBytes (.kissTxTail 1 [0x05]) = some [0xC0, 0x14, 0x05, 0xC0] ∧
      fed [0xC0, 0x14, 0x05, 0xC0] = ([.frame 1 .txTail 0x14 [0x05]], .waitFend, 2, 0x04) ∧
      hostBytes (.kissUnknownHigh 0 7 []) = some [0xC0, 0x0F, 0xC0] ∧
      fed [0xC0, 0x0F, 0xC0] = ([.frame 0 .unknown 0x0F []], .waitFend, 1, 0x04) := by decide
/-- KF-10: SetSpreading 9. -/
theorem test_sethw_rows :
    hostBytes (.sethwSetSpreading 0 [0x09]) = some [0xC0, 0x06, 0x03, 0x09, 0xC0] ∧
      fed [0xC0, 0x06, 0x03, 0x09, 0xC0] = ([.frame 0 .setHardware 0x06 [0x03, 0x09]], .waitFend, 3, 0x04) := by decide
/-- KF-7. -/
theorem test_kiss_byte_esc :
    after (exec .kissByteEsc base) (fun t => (t.reply, t.kfStat, t.kfRxBytes)) = some (.done [.exit] .none, 0x01, 1) := by decide

/-! ### AX -/

/-- AX-1, AX-2. -/
theorem test_ax_pack :
    packAddr n0call true = [0x9C, 0x60, 0x86, 0x82, 0x98, 0x98, 0x73] ∧
      packAddr ⟨[0x41, 0x42, 0x43, 0x44, 0x45, 0x46, 0x47, 0x48], 17⟩ true =
        [0x82, 0x84, 0x86, 0x88, 0x8A, 0x8C, 0x63] := by decide
/-- AX-3, AX-4. -/
theorem test_ax_pack_corners :
    packAddr ⟨[], 0⟩ false = [0x40, 0x40, 0x40, 0x40, 0x40, 0x40, 0x60] ∧
      packAddr ⟨[0xC1], 0⟩ false = [0x82, 0x40, 0x40, 0x40, 0x40, 0x40, 0x60] := by decide
/-- AX-6, AX-8. -/
theorem test_ax_unpack :
    after (exec (.axUnpackaddr [0x9C, 0x60, 0x86, 0x82, 0x98, 0x98, 0x73]) base) (fun t => t.reply) =
        some (.done [] (.address [0x4E, 0x30, 0x43, 0x41, 0x4C, 0x4C] 9 [0x4E, 0x30, 0x43, 0x41, 0x4C, 0x4C, 0x2D, 0x39])) ∧
      after (exec (.axUnpackaddr [0x82, 0x00, 0x40, 0x40, 0x40, 0x40, 0xFF]) base) (fun t => t.reply) =
        some (.done [] (.address [0x41, 0x00] 15 [0x41, 0x00, 0x2D, 0x31, 0x35])) := by decide
/-- AX-5, AX-7: an embedded space is kept; six spaces give an empty callsign. -/
theorem test_ax_unpack_spaces :
    unpackAddr [0x82, 0x40, 0x84, 0x40, 0x40, 0x40, 0x60] = ⟨[0x41, 0x20, 0x42], 0⟩ ∧
      unpackAddr [0x40, 0x40, 0x40, 0x40, 0x40, 0x40, 0x60] = ⟨[], 0⟩ := by decide
/-- L1-7, AX-17, AX-21. -/
theorem test_ax_parse :
    parseFrame frameL17 = .ok ⟨2, aprs, n0call, [], 16⟩ ∧ parseFrame (frameL17.take 13) = .invalid .short ∧
      parseFrame (packAddr aprs true ++ packAddr n0call true) = .invalid .fewFields := by decide
/-- AX-18, AX-19, AX-23: the header length at the end of the buffer; a field that is not whole. -/
theorem test_ax_parse_corners :
    parseFrame (frameL17.take 14) = .ok ⟨2, aprs, n0call, [], 14⟩ ∧
      parseFrame (frameL17.take 15) = .ok ⟨2, aprs, n0call, [], 14⟩ ∧
      parseFrame (packAddr ⟨[0x41], 0⟩ false ++ packAddr ⟨[0x42], 0⟩ false ++ [0, 0, 0, 0, 0, 0]) =
        .invalid .unterminated := by decide
/-- L1-7. -/
theorem test_ax_encodeui : encodeUi aprs n0call [] [0x21] = frameL17 := by decide +kernel
/-- AX-10: two digipeaters, the extension bit on the last. AX-13: nine are refused. -/
theorem test_ax_encodeui_digis :
    (encodeUi aprs n0call [wide1, wide2] []).drop 13 =
        [0x72, 0xAE, 0x92, 0x88, 0x8A, 0x62, 0x40, 0x62, 0xAE, 0x92, 0x88, 0x8A, 0x64, 0x40, 0x65, 0x03, 0xF0, 0x0D, 0xA6] ∧
      refusedBy (exec (.axEncodeui aprs n0call (List.replicate 9 wide1) []) base) = some (.tooManyDigis 9) := by decide +kernel
theorem test_ax_fields :
    after (exec (.ax25SsidByte true 9) base) (fun t => t.reply) = some (.done [] (.bytes [0x73])) ∧
      after (exec (.ax25CallByte 0x41) base) (fun t => t.reply) = some (.done [] (.bytes [0x82])) := by decide

/-! ### CRC -/

/-- CRC-9, CRC-10. -/
theorem test_crc_byte :
    after (exec (.crcByte 0x00) base) (fun t => (t.crcReg, t.reply)) = some (0xE1F0, .done [] (.u16 0xE1F0)) ∧
      crcStep 0xFFFF 0x41 = 0xB915 := by decide
/-- CRC-1, CRC-5, CRC-7. -/
theorem test_crc_calc :
    crc16 [0x31, 0x32, 0x33, 0x34, 0x35, 0x36, 0x37, 0x38, 0x39] = 0x29B1 ∧ crc16 [0xFF] = 0xFF00 ∧
      crc16 [0x48, 0x69] = 0x64E5 := by decide +kernel
theorem test_crc_init : after (exec .crcInit { base with crcReg := 0x1234 }) (fun t => t.crcReg) = some 0xFFFF := by decide

/-! ### CA -/

/-- CA-20. -/
theorem test_ca_setcfg_refused :
    refusedBy (exec (.caSetcfg 0 256) base) = some (.valueTooWide 256) ∧
      refusedBy (exec (.caSetcfg 1 65536) base) = some (.valueTooWide 65536) ∧
      refusedBy (exec (.caSetcfg 3 0) base) = some (.badSelector 3) := by decide
/-- CA-22: the running wait is kept. -/
theorem test_ca_setcfg_keeps_wait :
    after (exec (.caSetcfg 1 1) { base with caSlotCnt := 100 }) (fun t => (t.caSlot, t.caSlotCnt)) = some (1, 100) := by decide
/-- CA-23. -/
theorem test_ca_busy :
    after (exec (.caBusy true) { base with caNow := 500 }) (fun t => (t.caBusy, t.caLastRx)) = some (true, 500) ∧
      after (exec (.caBusy false) { base with caNow := 501, caBusy := true, caLastRx := 500 })
        (fun t => (t.caBusy, t.caLastRx)) = some (false, 500) := by decide
/-- CA-1, CA-2, CA-9, CA-11. -/
theorem test_ca_check :
    after (exec (.caCheck 0x3F) base) (fun t => (t.reply, t.caTxActive, t.caStatus)) = some (.done [] .grant, true, 2) ∧
      after (exec (.caCheck 0x40) base) (fun t => (t.reply, t.caSlotCnt, t.caStatus)) = some (.done [] .wait, 100, 4) ∧
      after (exec (.caCheck 0x00) { base with caPersist := 255, caBusy := true }) (fun t => t.caSlotCnt) = some 100 ∧
      after (exec (.caCheck 0x09) { base with caPersist := 0, caSlot := 0xFFFF }) (fun t => t.caSlotCnt) = some 655350 := by decide
/-- CA-3, CA-13: hold and stuck. -/
theorem test_ca_check_blocked :
    after (exec (.caCheck 0x00) { base with caSlotCnt := 1 }) (fun t => (t.reply, t.caSlotCnt, t.caTxActive)) =
        some (.held, 1, false) ∧
      stuckBy (exec (.caCheck 0x00) { base with caTxActive := true }) = some .checkWhileTransmitting := by decide
/-- CA-15, CA-12. -/
theorem test_ca_txdone :
    after (exec .caTxdone { base with caTxActive := true, caNow := 1234 })
        (fun t => (t.caTxActive, t.caLastTx, t.caDeafCnt, t.caStatus)) = some (false, 1234, 2000, 0) ∧
      stuckBy (exec .caTxdone base) = some .txDoneWithoutGrant := by decide
/-- CA-19, CA-5. -/
theorem test_ca_tick :
    after (exec .caTick { base with caNow := 0xFFFFFFFF, caSlotCnt := 1 }) (fun t => (t.caNow, t.caSlotCnt, t.caDeafCnt)) =
      some (0, 0, 0) := by decide
/-- CA-16, CA-17. -/
theorem test_ca_rxok :
    after (exec .caRxok { base with caDeafCnt := 1 }) (fun t => t.reply) = some (.done [] (.bool false)) ∧
      after (exec .caRxok base) (fun t => t.reply) = some (.done [] (.bool true)) := by decide
/-- P2, steps 12 to 15: a held CA.CHECK stays at the head of its queue and runs once the count is 0. -/
theorem test_held_check_runs :
    after (step { base with caSlotCnt := 1, hostIn := [0x42, 0x80], sched := [⟨.host, .op⟩, ⟨.timer, .op⟩] })
        (fun t => (t.reply, t.hostIn, t.sched)) = some (.held, [0x42, 0x80], [⟨.timer, .op⟩]) ∧
      after (step { base with hostIn := [0x42, 0x80], sched := [⟨.host, .op⟩] }) (fun t => (t.reply, t.hostIn)) =
        some (.done [] .wait, []) := by decide

/-! ### Witnesses: the hypotheses of the obligations can be met, clause by clause, at the ends of their ranges -/

theorem rxCap_pos : 512 ≤ Config.params.rxCap := Nat.le_add_left ..

/-- A payload that fills the buffer to its last byte. -/
theorem full_payload : ∃ p : List Byte, p.length + 1 = Config.params.rxCap :=
  ⟨List.replicate (Config.params.rxCap - 1) 0, by
    have := rxCap_pos
    simp only [List.length_replicate]
    omega⟩

/-- The host presents these bytes in format OP at the next transfer. -/
def presents (bytes : List Byte) : State := { base with hostIn := bytes, sched := [⟨.host, .op⟩] }

theorem witness_DecodeInvertsEncode :
    (Instr.axUnpackaddr [0, 0, 0, 0, 0, 0, 0]).encodable = true ∧ (Instr.kissUnknownHigh 15 6 [0x41]).encodable = true ∧
      (Instr.kissUnknownHigh 14 7 []).encodable = true ∧ (Instr.caSetcfg 0xFF 0xFFFFFFFF).encodable = true := by decide
theorem witness_ReservedOpSelectIsRefused :
    (0x46 : Byte) ∉ ([0x00, 0x01, 0x10, 0x11, 0x12, 0x13, 0x20, 0x21, 0x22, 0x23, 0x30, 0x31, 0x32, 0x40, 0x41, 0x42, 0x43,
        0x44, 0x45] : List Byte) ∧
      (presents [0x46]).sched = [⟨.host, .op⟩] ∧ (presents [0x46]).queue .host = [0x46] := by decide
/-- A completed, a held, a stuck and a refused operation. -/
theorem witness_StepRunsTheDecodedOperation :
    decode .op ((presents [0x44]).queue .host) = .ok .caTick [] ∧ mayIssue .timer .caTick = true ∧
      decode .op ((presents [0x12, 1]).queue .host) = .ok (.kfClrstat 1) [] ∧ mayIssue .host (.kfClrstat 1) = true ∧
      (after (exec (.kfClrstat 1) (presents [0x12, 1])) fun _ => ()) = some () ∧
      stuckBy (exec .caTxdone (presents [0x43])) = some .txDoneWithoutGrant ∧
      refusedBy (exec (.blkRdreg 8) (presents [1, 8])) = some (.reservedRegister 8) := by decide
theorem witness_EachAgentIssuesItsOwn :
    decode .op ((presents [0x44]).queue .host) = .ok .caTick [] ∧ mayIssue .host .caTick = false := by decide
theorem witness_HeldCheckStaysPending :
    (presents [0x42, 0x80]).queue .host = [0x42, 0x80] ∧ ({ presents [0x42, 0x80] with caSlotCnt := 1 } : State).caTxActive = false ∧
      ({ presents [0x42, 0x80] with caSlotCnt := 1 } : State).caSlotCnt ≠ 0 := by decide
theorem witness_ByteOutsideAFrame : base.kfState = .waitFend ∧ (0xDB : Byte) ≠ 0xC0 ∧ (0xDB : Byte) ≠ 0x1B := by decide
/-- A frame of the command byte alone, a Return frame, and a frame with a payload. -/
theorem witness_FendCompletesTheFrame :
    (∀ a, a ≤ ([] : List Byte).length → memRead [(0, 0x00)] a = ([0x00] : List Byte)[a]?) ∧
      (∀ a, a ≤ ([] : List Byte).length → memRead [(0, 0xFF)] a = ([0xFF] : List Byte)[a]?) ∧
      (∀ a, a ≤ ([0x41] : List Byte).length → memRead [(0, 0x00), (1, 0x41)] a = ([0x00, 0x41] : List Byte)[a]?) := by
  decide
theorem witness_IdleFendAndFesc :
    ({ base with kfState := .inFrame } : State).kfState = .inFrame ∧ ({ base with kfState := .inFrame } : State).kfLen = 0 := by
  decide
/-- Each of the three appends, with the last free byte of the buffer and with the buffer full. -/
theorem witness_AppendOrOverflow :
    ((0x1B : Byte) ≠ 0xC0 ∧ (0x1B : Byte) ≠ 0xDB) ∧
      (∃ s : State, s.kfState = .inFrame ∧ s.kfLen < Config.params.rxCap ∧ s.kfLen + 1 = Config.params.rxCap) ∧
      (∃ s : State, s.kfState = .inFrame ∧ s.kfLen = Config.params.rxCap) ∧
      (∃ s : State, s.kfState = .escaped ∧ s.kfLen < Config.params.rxCap ∧ s.kfLen + 1 = Config.params.rxCap) ∧
      ∃ s : State, s.kfState = .escaped ∧ s.kfLen = Config.params.rxCap := by
  have h := rxCap_pos
  exact ⟨by decide,
    ⟨{ base with kfState := .inFrame, kfLen := Config.params.rxCap - 1 }, rfl, by dsimp only; omega, by dsimp only; omega⟩,
    ⟨{ base with kfState := .inFrame, kfLen := Config.params.rxCap }, rfl, rfl⟩,
    ⟨{ base with kfState := .escaped, kfLen := Config.params.rxCap - 1 }, rfl, by dsimp only; omega, by dsimp only; omega⟩,
    ⟨{ base with kfState := .escaped, kfLen := Config.params.rxCap }, rfl, rfl⟩⟩
theorem witness_InvalidEscape :
    ({ base with kfState := .escaped } : State).kfState = .escaped ∧ (0xC0 : Byte) ≠ 0xDC ∧ (0xC0 : Byte) ≠ 0xDD := by decide
theorem witness_ClrStatClearsSelectedBits : (7 : Nat) < 8 := by decide
/-- Both starts, with the empty payload and with one that fills the buffer: FedEncodingRoundTrips, CommandFramesAreDelivered,
ReturnFrameRaisesExit. -/
theorem witness_startable :
    startable base ∧ startable { base with kfState := .inFrame } ∧ ([] : List Byte).length + 1 ≤ Config.params.rxCap ∧
      (∃ p : List Byte, p.length + 1 ≤ Config.params.rxCap ∧ Config.params.rxCap ≤ p.length + 1) ∧ (0x0F : Byte) ≠ 0xFF ∧
      ¬((15 : BitVec 4) = 15 ∧ (6 : BitVec 3) = 7) := by
  have h := rxCap_pos
  obtain ⟨p, hp⟩ := full_payload
  exact ⟨.inl rfl, .inr ⟨rfl, rfl⟩, by simp only [List.length_nil]; omega, ⟨p, by omega, by omega⟩, by decide, by decide⟩
theorem witness_NextFrameSurvivesAnError :
    base.kfState = .waitFend ∧ (0xC0 : Byte) ∉ ([0x1B, 0x41] : List Byte) ∧ (0x00 : Byte) ≠ 0xFF ∧
      ∃ p : List Byte, p.length + 1 ≤ Config.params.rxCap := by
  obtain ⟨p, hp⟩ := full_payload
  exact ⟨rfl, by decide, by decide, p, by omega⟩
theorem witness_SubCommandsPassThrough :
    startable base ∧ (∃ args : List Byte, args.length + 2 ≤ Config.params.rxCap) ∧ 9 < (0x0A : Byte).toNat :=
  ⟨.inl rfl, ⟨[], by have := rxCap_pos; simp only [List.length_nil]; omega⟩, by decide⟩
theorem witness_FrameRowsAreFeeds :
    hostBytes (.kfRxbyte 0x41) = some [0x41] ∧ hostBytes (.kissReturn []) = some [0xC0, 0xFF, 0xC0] ∧
      hostBytes (.kissData 12 []) = some [0xC0, 0xDB, 0xDC, 0xC0] ∧ hostBytes .kissByteFesc = some [0xDB] ∧
      hostBytes (.sethwGetConfig 0 []) = some [0xC0, 0x06, 0x06, 0xC0] := by decide
theorem witness_HostBytesCommuteWithOtherAgents : ∃ x, Instr.caBusy true = .caBusy x := ⟨true, rfl⟩
theorem witness_UnpackAddress :
    ([0x40, 0x40, 0x40, 0x40, 0x40, 0x40, 0x60] : List Byte).length = 7 ∧ ([] : List Byte).length ≠ 7 := by decide
/-- One character and SSID 0; six characters and SSID 15. -/
theorem witness_AddressRoundTrips : plainAddr ⟨[0x7F], 0⟩ ∧ plainAddr ⟨[0x4E, 0x30, 0x43, 0x41, 0x4C, 0x4C], 15⟩ := by
  unfold plainAddr
  decide
/-- 13 bytes; two fields and ten fields without an extension bit; a first field that has it; the second and the tenth. -/
theorem witness_ParseVerdict :
    (List.replicate 13 (0 : Byte)).length < 14 ∧
      (∀ j, j < 10 → 7 * (j + 1) ≤ 14 → extBit (List.replicate 14 0) j = false) ∧
      (∀ j, j < 10 → 7 * (j + 1) ≤ 72 → extBit (List.replicate 72 0) j = false) ∧
      extBit (List.replicate 14 1) 0 = true ∧
      (extBit frameL17 1 = true ∧ ∀ k, k < 1 → extBit frameL17 k = false) ∧
      (extBit (List.replicate 69 0 ++ [1]) 9 = true ∧ ∀ k, k < 9 → extBit (List.replicate 69 0 ++ [1]) k = false) := by
  decide
/-- 0, 8 and 9 digipeaters: EncodeUiFrame, UiFrameShape. -/
theorem witness_digis :
    ([] : List Addr).length ≤ 8 ∧ (List.replicate 8 wide1).length ≤ 8 ∧ 8 < (List.replicate 9 wide1).length := by decide
theorem witness_UiFrameParsesBack :
    plainAddr aprs ∧ plainAddr n0call ∧ (∀ d ∈ [wide1, wide2], plainAddr d) ∧ [wide1, wide2].length ≤ 8 := by
  unfold plainAddr
  decide
theorem witness_SetConfiguration :
    (255 : U32).toNat ≤ 0xFF ∧ 0xFF < (256 : U32).toNat ∧ (65535 : U32).toNat ≤ 0xFFFF ∧ 0xFFFF < (65536 : U32).toNat ∧
      2 < (3 : Byte).toNat := by decide
/-- Transmitting; waiting with one tick to go; ready with the channel free and the draw at the persistence, and one above;
ready with the channel busy: GateCheck, GateBound, TransmissionDone. -/
theorem witness_GateCheck :
    (∃ s : State, s.caTxActive = true) ∧ (∃ s : State, s.caTxActive = false ∧ s.caSlotCnt = 1) ∧
      (base.caTxActive = false ∧ base.caSlotCnt = 0 ∧ base.caBusy = false ∧ (63 : Byte).toNat ≤ base.caPersist.toNat ∧
        base.caPersist.toNat < (64 : Byte).toNat) ∧
      ∃ s : State, s.caTxActive = false ∧ s.caSlotCnt = 0 ∧ s.caBusy = true :=
  ⟨⟨{ base with caTxActive := true }, rfl⟩, ⟨{ base with caSlotCnt := 1 }, rfl, rfl⟩, by decide,
    ⟨{ base with caBusy := true }, rfl, rfl, rfl⟩⟩
/-- A grant, and both ends of a transmission. -/
theorem witness_HalfDuplex :
    after (exec (.caCheck 0) base) (fun t => t.caTxActive) = some true ∧
      after (exec .caTxdone { base with caTxActive := true }) (fun t => t.caTxActive) = some false ∧
      after (exec .blkReset { base with caTxActive := true }) (fun t => t.caTxActive) = some false := by decide
/-- A deaf period of one tick: operations of all three agents, and their end. -/
theorem witness_DeafPeriodIsExact :
    after (exec .caTxdone { base with caTxActive := true, caDeaf := 1 }) (fun t =>
      (runOps [.caBusy true, .caRxok, .caTick] t).map fun k => k.2.rxOk) = some (some true) := by decide
theorem witness_SlotWaitIsExact :
    after (exec (.caCheck 64) base) (fun t => t.reply) = some (.done [] .wait) ∧
      (∀ r, .caCheck r ∉ [Instr.caTick, .caSetcfg 1 0, .kfRxreset]) ∧ .blkReset ∉ [Instr.caTick, .caSetcfg 1 0, .kfRxreset] ∧
      after (exec (.caCheck 64) base) (fun t => (runOps [.caTick, .caSetcfg 1 0, .kfRxreset] t).map fun k => k.2.caSlotCnt) =
        some (some 99) := ⟨by decide, by simp, by decide, by decide⟩
/-- A WAIT on a draw, a held check, ten ticks, and a grant; the slot time written on the way does not change the wait. -/
theorem witness_CsmaWaitsEverySlot :
    (csma [([], 64), ([.caTick, .caSetcfg 1 2], 0), (List.replicate 9 .caTick, 0)] { base with caSlot := 1 }).map
      (fun k => (k.granted, k.waits, k.ticks)) = some (true, 1, 10) ∧
      .blkReset ∉ [Instr.caTick, .caSetcfg 1 2] ∧ 1 ≤ (2#32 : U32).toNat := by decide
/-- R126, R132: a BLK.RESET from the other half of a split host ends the slot wait of a loop that runs on. -/
theorem test_csma_reset :
    (csma [([], 64), ([.blkReset, .caBusy true], 0)] { base with caSlot := 1 }).map (fun k => (k.granted, k.waits)) =
      some (false, 2) := by decide
theorem witness_StepKeepsTheInvariant :
    base.Inv ∧ after (step (presents [0x42, 0x40])) (fun t => t.caSlotCnt) = some 100 :=
  ⟨⟨rfl, Nat.zero_le _, by decide, by decide, by decide, by decide, fun _ => rfl⟩, by decide⟩
theorem witness_FramerAndCrcWriters :
    hostBytes .caTick = none ∧ Instr.caTick ≠ .blkReset ∧ Instr.caTick ≠ .kfRxreset ∧ Instr.caTick ≠ .crcInit ∧
      (∀ b, Instr.caTick ≠ .crcByte b) ∧ (after (exec .caTick base) fun t => t.crcReg) = some 0xFFFF :=
  ⟨rfl, nofun, nofun, nofun, nofun, by decide⟩
theorem witness_StatusBitsAreSticky :
    hostBytes (.kfClrstat 1) = none ∧
      after (exec (.kfClrstat 1) { base with kfStat := 0x07 }) (fun t => (t.kfStat.getLsbD 0, t.kfStat.getLsbD 2)) =
        some (false, true) ∧
      after (exec .kissByteEsc { base with kfState := .escaped, kfStat := 0x0A })
        (fun t => (t.errCode, t.reply.events)) = some (2, [.kfErr .badEsc]) ∧
      after (exec (.kfClrstat 2) { base with kfStat := 0x12 }) (fun t => t.errCode) = some 0 := by decide
theorem witness_CountersCount :
    after (exec .kissByteEsc { base with kfState := .escaped }) (fun t => (t.kfRxBytes, t.kfErrors, t.reply)) =
        some (1, 1, .done [.kfErr .badEsc] .none) ∧ (∀ c p, Instr.kissByteEsc ≠ .kfEncode c p) :=
  ⟨by decide, nofun⟩
/-- Each register of the arbiter written. -/
theorem witness_ArbiterWriters :
    after (exec (.caSetcfg 0 1) base) (fun t => t.caPersist != base.caPersist) = some true ∧
      after (exec (.caSetcfg 1 1) base) (fun t => t.caSlot != base.caSlot) = some true ∧
      after (exec (.caSetcfg 2 1) base) (fun t => t.caDeaf != base.caDeaf) = some true ∧
      after (exec (.caBusy true) { base with caNow := 1 }) (fun t => (t.caBusy, t.caLastRx)) = some (true, 1) ∧
      after (exec (.caCheck 64) base) (fun t => t.caSlotCnt != base.caSlotCnt) = some true ∧
      after (exec .caTxdone { base with caTxActive := true, caNow := 1 })
        (fun t => (t.caTxActive, t.caDeafCnt, t.caLastTx)) = some (false, 2000, 1) ∧
      after (exec .caTick base) (fun t => t.caNow) = some 1 := by decide
theorem witness_ContractKeepsTheBlockGoing :
    (Instr.caCheck 0).wf = true ∧ hostContract (.caCheck 0) base ∧ hostContract (.caCheck 0) { base with caSlotCnt := 1 } ∧
      Instr.caTxdone.wf = true ∧ hostContract .caTxdone { base with caTxActive := true } :=
  ⟨rfl, ⟨fun _ _ => rfl, nofun⟩, ⟨fun _ _ => rfl, nofun⟩, rfl, ⟨nofun, fun _ => rfl⟩⟩
/-- A packet while deaf, one that does not parse, and one that does (L1-7). -/
theorem witness_ReceiveDuty :
    ({ base with caDeafCnt := 1 } : State).rxOk = false ∧ base.rxOk = true ∧
      (receivePacket [0x41] 0 [] base).map (fun k => k.1) = some (.invalid 1) ∧
      (receivePacket frameL17 0 [0xC0] base).map (fun k => (k.2.kfTxFrames, k.2.kfTxBytes, k.2.reply)) =
        some (1, 5, .done [] (.bytes [0xC0, 0x00, 0xDB, 0xDC, 0xC0])) := by decide +kernel
theorem witness_LeavingKissIsSilent : (1 : Nat) ≠ 0 := by decide

end Sys2Proof.Tests
end

/-! PROOF. The scope family: how the interface presents an operation to the block and what a held one leaves (spec/00_scope.md
R13, spec/43_channel_access.md R121). -/

namespace Sys2Proof.Machine

section Presenting

variable {s t : State} {a : Agent} {fmt : Format} {i : Instr} {rest : List Byte} {more : List Slot}

/-- No format has an operation of no bytes. -/
theorem decode_nil (fmt : Format) : decode fmt [] = .bad .truncated := by
  cases fmt <;> rfl

/-- The host and its CSMA thread may issue the operations of the host agent, and no other agent may (R41, R147). -/
theorem mayIssue_of_issuer_host (h : issuer i = .host) : mayIssue a i = true ↔ a = .host ∨ a = .hostThread := by
  simp [mayIssue, h]

/-- Bytes that decode are fetched as their operation, or refused to an agent that R41 does not give it. -/
theorem fetch_of_decode (hs : s.sched = ⟨a, fmt⟩ :: more) (hd : decode fmt (s.queue a) = .ok i rest) :
    fetch s = if mayIssue a i then .op a i rest more else .wrong a := by
  have hq : s.queue a ≠ [] := fun h => by simp [h, decode_nil] at hd
  simp [fetch, hs, hq, hd]

/-- A step at which an agent presents an operation of its own runs it, with the transfer taken from the schedule. -/
theorem step_of_decode (hs : s.sched = ⟨a, fmt⟩ :: more) (hd : decode fmt (s.queue a) = .ok i rest)
    (hi : mayIssue a i = true) : step s = runFetched a i rest { s with sched := more } := by
  simp [step, fetch_of_decode hs hd, hi]

/-- An operation that answers a hold is not retired: what it answers is the next state, the agent's queue included. -/
theorem runFetched_of_held (he : exec i s = .next t) (hr : t.reply = .held) : runFetched a i rest s = .next t := by
  simp [runFetched, he, retire_held a rest t hr]

end Presenting

/-- R121: during a slot wait, with no transmission active, a CA.CHECK holds whatever its draw. -/
theorem exec_caCheck_of_waiting {s : State} (r : Byte) (ht : s.caTxActive = false) (hc : s.caSlotCnt ≠ 0) :
    exec (.caCheck r) s = .next { s with reply := .held } := by
  obtain ⟨hactive, -⟩ | ⟨-, -, hheld⟩ | ⟨-, hzero, -⟩ | ⟨-, hzero, -⟩ := execCaCheck_cases s r
  · simp [ht] at hactive
  · exact hheld
  · exact absurd hzero hc
  · exact absurd hzero hc

end Sys2Proof.Machine

namespace Sys2Proof.Proofs

open Sys2Proof.Machine

/-- Settles O6: the check decodes, its agent may issue it, and a hold retires nothing. -/
theorem heldCheckStaysPending : Obligations.HeldCheckStaysPending := by
  intro s a more r q ha hs hq ht hc
  have hdecode : decode .op (s.queue a) = .ok (.caCheck r) q := by rw [hq]; rfl
  have hissue : mayIssue a (.caCheck r) = true := (mayIssue_of_issuer_host rfl).mpr ha
  have hhold := exec_caCheck_of_waiting (s := { s with sched := more }) r ht hc
  exact (step_of_decode hs hdecode hissue).trans (runFetched_of_held hhold rfl)

end Sys2Proof.Proofs

/-! PROOF. The state family: the effect of an operation as an inductive relation, what the framer's receive operation keeps and
counts, which updates of the arbiter it commutes with, and the invariant of the block's state (spec/10_state.md R22 to R41). -/

namespace Sys2Proof.Machine

/-! ### What an operation does -/

/-- What an operation of `s` that answers a next state does: `exec_next_cases` as a relation with named cases, so that a proof
names the operations it is about. -/
inductive Effect (s : State) : Instr → State → Prop
  | received {i : Instr} (bytes : List Byte) (hbytes : hostBytes i = some bytes) : Effect s i
      { (rxBytes Config.params bytes s).1 with reply := .done (rxBytes Config.params bytes s).2 .none }
  | reset : Effect s .blkReset { resetBlock Config.params s with reply := .done [] .none }
  | rxreset : Effect s .kfRxreset { idleFramer s with reply := .done [] .none }
  | clrstat (m : Byte) :
      Effect s (.kfClrstat m) { s with kfStat := clearStat m s.kfStat, reply := .done [] .none }
  | encode (c : Byte) (p : List Byte) (n : U32) : Effect s (.kfEncode c p)
      { s with kfTxFrames := s.kfTxFrames + 1, kfTxBytes := n, reply := .done [] (.bytes (wireFrame c p)) }
  | crcInit (c : U16) (r : Result) : Effect s .crcInit { s with crcReg := c, reply := .done [] r }
  | crcByte (b : Byte) (c : U16) (r : Result) : Effect s (.crcByte b) { s with crcReg := c, reply := .done [] r }
  | persist (v : U32) : Effect s (.caSetcfg 0 v) { s with caPersist := v.setWidth 8, reply := .done [] .none }
  | slot (v : U32) : Effect s (.caSetcfg 1 v) { s with caSlot := v.setWidth 16, reply := .done [] .none }
  | deaf (v : U32) : Effect s (.caSetcfg 2 v) { s with caDeaf := v, reply := .done [] .none }
  | busy (b : Bool) : Effect s (.caBusy b)
      { s with caBusy := b, caLastRx := if b then s.caNow else s.caLastRx, reply := .done [] .none }
  | held (r : Byte) (htx : s.caTxActive = false) (hcnt : s.caSlotCnt ≠ 0) :
      Effect s (.caCheck r) { s with reply := .held }
  | grant (r : Byte) (htx : s.caTxActive = false) (hcnt : s.caSlotCnt = 0) (hgate : gateOpen r s = true) :
      Effect s (.caCheck r) { s with caTxActive := true, reply := .done [] .grant }
  | wait (r : Byte) (htx : s.caTxActive = false) (hcnt : s.caSlotCnt = 0) (hgate : gateOpen r s = false) :
      Effect s (.caCheck r) { s with caSlotCnt := slotLoad s.caSlot, reply := .done [] .wait }
  | txdone (htx : s.caTxActive = true) : Effect s .caTxdone
      { s with caTxActive := false, caLastTx := s.caNow, caDeafCnt := s.caDeaf, reply := .done [] .none }
  | tick : Effect s .caTick { tick s with reply := .done [] .none }
  | other {i : Instr} (hbytes : hostBytes i = none) (htick : i ≠ .caTick) (k : Nat) (r : Result) :
      Effect s i { s with freeCtr := k, reply := .done [] r }

/-- An operation that answers a next state has an effect. -/
theorem effect_of_exec {i : Instr} {s t : State} (h : exec i s = .next t) : Effect s i t := by
  obtain ⟨bytes, hb, rfl⟩ | ⟨rfl, rfl⟩ | ⟨rfl, rfl⟩ | ⟨m, rfl, rfl⟩ | ⟨c, p, n, rfl, rfl⟩ | ⟨c, r, rfl | ⟨b, rfl⟩, rfl⟩ |
    ⟨v, rfl, rfl⟩ | ⟨v, rfl, rfl⟩ | ⟨v, rfl, rfl⟩ | ⟨b, rfl, rfl⟩ | ⟨r, rfl, htx, hcnt, rfl⟩ |
    ⟨r, rfl, htx, hcnt, hgate, rfl⟩ | ⟨r, rfl, htx, hcnt, hgate, rfl⟩ | ⟨rfl, htx, rfl⟩ | ⟨rfl, rfl⟩ |
    ⟨hb, ht, k, r, rfl⟩ := exec_next_cases i s t h
  · exact .received bytes hb
  · exact .reset
  · exact .rxreset
  · exact .clrstat m
  · exact .encode c p n
  · exact .crcInit c r
  · exact .crcByte b c r
  · exact .persist v
  · exact .slot v
  · exact .deaf v
  · exact .busy b
  · exact .held r htx hcnt
  · exact .grant r htx hcnt hgate
  · exact .wait r htx hcnt hgate
  · exact .txdone htx
  · exact .tick
  · exact .other hb ht k r

/-- A step that answers a next state takes at most a slot from the schedule, or runs the operation it fetched. -/
theorem step_next_cases {s t : State} (h : step s = .next t) :
    (∃ more, t = { s with sched := more }) ∨
      ∃ a i rest more u, fetch s = .op a i rest more ∧ exec i { s with sched := more } = .next u ∧
        t = retire a rest u := by
  unfold step at h
  split at h
  case h_1 => cases h; exact .inl ⟨s.sched, rfl⟩
  case h_2 more _ => cases h; exact .inl ⟨more, rfl⟩
  case h_3 => cases h
  case h_4 => cases h
  case h_5 a i rest more hf =>
    unfold runFetched at h
    split at h
    case h_1 u hu => cases h; exact .inr ⟨a, i, rest, more, u, hf, hu, rfl⟩
    case h_2 => cases h
    case h_3 => cases h

/-! ### The bits of kf_stat (R24) -/

/-- A value of kf_stat that R24 admits: reserved bits 0, ERRCODE never 3, ERR set exactly when ERRCODE is not 0. -/
abbrev legalStat (st : Byte) : Prop :=
  st.extractLsb' 5 3 = 0 ∧ st.extractLsb' 3 2 ≠ 3 ∧ (st.getLsbD 1 = true ↔ st.extractLsb' 3 2 ≠ 0)

theorem legalStat_zero : legalStat 0 := by decide
theorem legalStat_setExit : ∀ st, legalStat st → legalStat (setExit st) := by decide
theorem legalStat_setFrame : ∀ st, legalStat st → legalStat (setFrame st) := by decide

theorem legalStat_setErr (e : KfErr) : ∀ st, legalStat st → legalStat (setErr e st) := by
  cases e <;> decide

/-- A status bit that is set stays set when a framing error is recorded (R135). -/
theorem getLsbD_setErr {k : Nat} (hk : k < 3) (e : KfErr) (st : Byte) (h : st.getLsbD k = true) :
    (setErr e st).getLsbD k = true := by
  interval_cases k <;> simp [setErr, h]

section ClearStat

variable {P : Byte → Prop} {m st : Byte} {k : Nat}

/-- What the clearing that each mask bit selects keeps, KF.CLRSTAT keeps (R88). -/
theorem clearStat_keeps (h : P st) (hexit : m.getLsbD 0 = true → ∀ x, P x → P (x &&& 0xFE))
    (herr : m.getLsbD 1 = true → ∀ x, P x → P (x &&& 0xE5))
    (hframe : m.getLsbD 2 = true → ∀ x, P x → P (x &&& 0xFB)) : P (clearStat m st) := by
  have hclear (c : Bool) (w x : Byte) (hw : c = true → ∀ x, P x → P (x &&& w)) (hx : P x) :
      P (if c then x &&& w else x) := by
    split
    · exact hw ‹_› x hx
    · exact hx
  exact hclear _ _ _ hframe (hclear _ _ _ herr (hclear _ _ _ hexit h))

theorem legalStat_clearStat (h : legalStat st) : legalStat (clearStat m st) :=
  clearStat_keeps h (fun _ => by decide) (fun _ => by decide) (fun _ => by decide)

/-- KF.CLRSTAT sets no bit. -/
theorem getLsbD_of_getLsbD_clearStat : (clearStat m st).getLsbD k = true → st.getLsbD k = true := by
  have hand (w x : Byte) (hx : x.getLsbD k = true → st.getLsbD k = true) :
      (x &&& w).getLsbD k = true → st.getLsbD k = true := by
    intro h
    rw [BitVec.getLsbD_and, Bool.and_eq_true] at h
    exact hx h.1
  exact clearStat_keeps (P := fun x => x.getLsbD k = true → st.getLsbD k = true) id (fun _ => hand _) (fun _ => hand _)
    (fun _ => hand _)

/-- KF.CLRSTAT keeps a status bit whose mask bit is 0. -/
theorem getLsbD_clearStat_of_mask (hk : k < 3) (hm : m.getLsbD k = false) (h : st.getLsbD k = true) :
    (clearStat m st).getLsbD k = true := by
  apply clearStat_keeps (P := fun x => x.getLsbD k = true) h <;> intro hbit x hx <;> interval_cases k <;> simp_all

/-- KF.CLRSTAT writes no reserved bit. -/
theorem reserved_clearStat : (clearStat m st).extractLsb' 5 3 = st.extractLsb' 5 3 := by
  have hexit : ∀ x : Byte, (x &&& 0xFE).extractLsb' 5 3 = x.extractLsb' 5 3 := by decide
  have herr : ∀ x : Byte, (x &&& 0xE5).extractLsb' 5 3 = x.extractLsb' 5 3 := by decide
  have hframe : ∀ x : Byte, (x &&& 0xFB).extractLsb' 5 3 = x.extractLsb' 5 3 := by decide
  exact clearStat_keeps (P := fun x => x.extractLsb' 5 3 = st.extractLsb' 5 3) rfl (fun _ x => (hexit x).trans)
    (fun _ x => (herr x).trans) (fun _ x => (hframe x).trans)

/-- KF.CLRSTAT clears ERRCODE with mask bit 1 and keeps it without. -/
theorem errCode_clearStat_of_ne (hne : (clearStat m st).extractLsb' 3 2 ≠ st.extractLsb' 3 2) :
    m.getLsbD 1 = true ∧ (clearStat m st).extractLsb' 3 2 = 0 := by
  have hexit : ∀ x : Byte, (x &&& 0xFE).extractLsb' 3 2 = x.extractLsb' 3 2 := by decide
  have herr : ∀ x : Byte, (x &&& 0xE5).extractLsb' 3 2 = 0 := by decide
  have hframe : ∀ x : Byte, (x &&& 0xFB).extractLsb' 3 2 = x.extractLsb' 3 2 := by decide
  have hcode : (clearStat m st).extractLsb' 3 2 = if m.getLsbD 1 then 0 else st.extractLsb' 3 2 := by
    simp only [clearStat]
    split_ifs <;> simp only [hexit, herr, hframe]
  by_cases hm : m.getLsbD 1 = true
  · exact ⟨hm, hcode.trans (if_pos hm)⟩
  · exact absurd (hcode.trans (if_neg hm)) hne

end ClearStat

/-! ### What received bytes do to the framer -/

section Received

variable {p : Params} {s : State} {bs : List Byte}

/-- What a host byte does: `rxByte_cases` as a relation with named cases. -/
inductive ByteEffect (p : Params) (b : Byte) (s : State) : KfStep → Prop
  | counted : ByteEffect p b s (countRx s, [])
  | opened (hb : b = fend) (hs : s.kfState = .waitFend) : ByteEffect p b s (openFrame (countRx s), [])
  | exit (hb : b = escSentinel) (hs : s.kfState = .waitFend) :
      ByteEffect p b s ({ countRx s with kfStat := setExit s.kfStat }, [.exit])
  | completed (hb : b = fend) (hs : s.kfState = .inFrame) (hlen : s.kfLen ≠ 0) :
      ByteEffect p b s (completeFrame p (countRx s))
  | escape (hb : b = fesc) (hs : s.kfState = .inFrame) :
      ByteEffect p b s ({ countRx s with kfState := .escaped }, [])
  | appended (v : Byte) (hs : s.kfState ≠ .waitFend) (hlen : s.kfLen < p.rxCap) : ByteEffect p b s
      ({ countRx s with kfBuf := memWrite s.kfBuf s.kfLen v, kfLen := s.kfLen + 1, kfState := .inFrame }, [])
  | failed (e : KfErr) (hs : s.kfState ≠ .waitFend) : ByteEffect p b s (framingError e (countRx s))

theorem rxByte_effect (b : Byte) : ByteEffect p b s (rxByte p b s) := by
  obtain ⟨u, rfl, hr | ⟨hb, hs, hr⟩ | ⟨hb, hs, hr⟩ | ⟨hb, hs, hlen, hr⟩ | ⟨hb, hs, hr⟩ | ⟨v, hs, hlen, hr⟩ |
    ⟨e, hs, hr⟩⟩ := rxByte_cases p s b <;> rw [hr]
  · exact .counted
  · exact .opened hb hs
  · exact .exit hb hs
  · exact .completed hb hs hlen
  · exact .escape hb hs
  · exact .appended v hs hlen
  · exact .failed e hs

section Stat

variable {P : Byte → Prop} (hexit : ∀ x, P x → P (setExit x)) (hframe : ∀ x, P x → P (setFrame x))
include hexit hframe

theorem completeStat_keeps (c : Byte) {st : Byte} (h : P st) : P (completeStat p c st) := by
  unfold completeStat
  dsimp only
  split_ifs
  · exact hexit _ (hframe _ h)
  · exact hexit _ h
  · exact hframe _ h
  · exact h

variable (herr : ∀ e x, P x → P (setErr e x))
include herr

theorem rxByte_kfStat_keeps (b : Byte) (h : P s.kfStat) : P (rxByte p b s).1.kfStat := by
  have heffect := rxByte_effect (p := p) (s := s) b
  generalize rxByte p b s = k at heffect ⊢
  cases heffect with
  | exit => exact hexit _ h
  | completed => exact completeStat_keeps hexit hframe _ h
  | failed e => exact herr e _ h
  | _ => exact h

/-- What each of the framer's writes of kf_stat keeps, received bytes keep (R77, R79, R135). -/
theorem rxBytes_kfStat_keeps (h : P s.kfStat) : P (rxBytes p bs s).1.kfStat := by
  induction bs generalizing s with
  | nil => exact h
  | cons b t ih => exact ih (rxByte_kfStat_keeps hexit hframe herr b h)

end Stat

theorem legalStat_rxBytes (h : legalStat s.kfStat) : legalStat (rxBytes p bs s).1.kfStat :=
  rxBytes_kfStat_keeps legalStat_setExit legalStat_setFrame legalStat_setErr h

/-- Received bytes clear no status bit (R24). -/
theorem getLsbD_rxBytes_kfStat {k : Nat} (hk : k < 3) (h : s.kfStat.getLsbD k = true) :
    (rxBytes p bs s).1.kfStat.getLsbD k = true :=
  rxBytes_kfStat_keeps (P := fun x => x.getLsbD k = true) (fun x hx => by simp [setExit, hx])
    (fun x hx => by simp [setFrame, hx]) (fun e x hx => getLsbD_setErr hk e x hx) h

/-- kf_buf lists exactly the bytes 0 to kf_len-1, and kf_len is at most RXCAP (R23, R44, R45). -/
def validBuf (p : Params) (s : State) : Prop := s.kfBuf.map Prod.fst = List.range s.kfLen ∧ s.kfLen ≤ p.rxCap

theorem validBuf_of_empty (hlen : s.kfLen = 0) (hbuf : s.kfBuf = []) : validBuf p s := by
  simp [validBuf, hlen, hbuf]

theorem validBuf_rxByte (b : Byte) (h : validBuf p s) : validBuf p (rxByte p b s).1 := by
  have heffect := rxByte_effect (p := p) (s := s) b
  generalize rxByte p b s = k at heffect ⊢
  cases heffect with
  | opened | failed => exact validBuf_of_empty rfl rfl
  | appended v _ hlen => exact ⟨keys_append s.kfBuf s.kfLen v h.1, hlen⟩
  | _ => exact h

theorem validBuf_rxBytes (h : validBuf p s) : validBuf p (rxBytes p bs s).1 := by
  induction bs generalizing s with
  | nil => exact h
  | cons b t ih => exact ih (validBuf_rxByte b h)

theorem rxByte_kfRxBytes (b : Byte) : (rxByte p b s).1.kfRxBytes = s.kfRxBytes + 1 := by
  have heffect := rxByte_effect (p := p) (s := s) b
  generalize rxByte p b s = k at heffect ⊢
  cases heffect <;> rfl

/-- Each host byte counts once (R25, R74). -/
theorem rxBytes_kfRxBytes : (rxBytes p bs s).1.kfRxBytes = s.kfRxBytes + BitVec.ofNat 32 bs.length := by
  induction bs generalizing s with
  | nil => simp
  | cons b t ih =>
    rw [rxBytes_cons, ih, rxByte_kfRxBytes, BitVec.add_assoc, BitVec.add_comm 1, List.length_cons, BitVec.ofNat_add]
    rfl

/-- Whether an event is a KF_ERR (R73). -/
def isKfErr (e : Event) : Bool := e == .kfErr .overflow || e == .kfErr .badEsc

theorem isKfErr_kfErr (e : KfErr) : isKfErr (.kfErr e) = true := by cases e <;> rfl

theorem countP_isKfErr_completeEvents (c : Byte) (q : List Byte) : (completeEvents p c q).countP isKfErr = 0 := by
  unfold completeEvents
  split_ifs <;> rfl

theorem rxByte_kfErrors (b : Byte) :
    (rxByte p b s).1.kfErrors = s.kfErrors + BitVec.ofNat 32 ((rxByte p b s).2.countP isKfErr) := by
  have heffect := rxByte_effect (p := p) (s := s) b
  generalize rxByte p b s = k at heffect ⊢
  cases heffect with
  | completed => simp [completeFrame, countP_isKfErr_completeEvents]
  | failed e => simp [framingError, isKfErr_kfErr]
  | exit => simp [isKfErr]
  | _ => simp

/-- Each KF_ERR event counts once (R25, R135). -/
theorem rxBytes_kfErrors :
    (rxBytes p bs s).1.kfErrors = s.kfErrors + BitVec.ofNat 32 ((rxBytes p bs s).2.countP isKfErr) := by
  induction bs generalizing s with
  | nil => simp
  | cons b t ih => rw [rxBytes_cons, ih, rxByte_kfErrors, List.countP_append, BitVec.ofNat_add, BitVec.add_assoc]

end Received

/-! ### What the host bytes and the other agents leave each other -/

section Agents

variable {p : Params} {s : State} {i : Instr}

/-- `s` with the receive registers of the framer taken from `u`: what a host byte leaves of `s` (`sameButFramer`). -/
def State.withFramer (s u : State) : State :=
  { s with
    kfState := u.kfState, kfLen := u.kfLen, kfBuf := u.kfBuf, kfStat := u.kfStat
    kfRxFrames := u.kfRxFrames, kfRxBytes := u.kfRxBytes, kfErrors := u.kfErrors }

/-- A host byte reads the receive registers of the framer alone (R74). -/
theorem rxByte_withFramer (b : Byte) (u : State) :
    rxByte p b (s.withFramer u) = (s.withFramer (rxByte p b u).1, (rxByte p b u).2) := by
  have happ (v : Byte) : append p v (countRx (s.withFramer u)) =
      (s.withFramer (append p v (countRx u)).1, (append p v (countRx u)).2) := by
    rcases append_cases p (countRx u) v with ⟨hlen, h⟩ | ⟨hlen, h⟩
    · rw [h, append, if_pos (by exact hlen)]
      rfl
    · rw [h, append, if_neg (by exact Nat.not_lt.2 hlen)]
      rfl
  cases hs : u.kfState with
  | waitFend =>
    rw [rxByte_waitFend p u b hs, rxByte_waitFend p (s.withFramer u) b hs]
    unfold rxWaitFend
    split_ifs <;> rfl
  | inFrame =>
    rw [rxByte_inFrame p u b hs, rxByte_inFrame p (s.withFramer u) b hs]
    have hlen : (countRx (s.withFramer u)).kfLen = (countRx u).kfLen := rfl
    simp only [rxInFrame, hlen]
    split_ifs
    · rfl
    · rfl
    · rfl
    · exact happ b
  | escaped =>
    rw [rxByte_escaped p u b hs, rxByte_escaped p (s.withFramer u) b hs]
    unfold rxEscaped
    split_ifs
    · exact happ fend
    · exact happ fesc
    · rfl

/-- An update that neither reads nor writes the receive registers of the framer. -/
def leavesFramer (g : State → State) : Prop := ∀ s u : State, g (s.withFramer u) = (g s).withFramer u

/-- A host byte commutes with an update that leaves the framer. -/
theorem rxByte_comm {g : State → State} (hg : leavesFramer g) (b : Byte) :
    rxByte p b (g s) = (g (rxByte p b s).1, (rxByte p b s).2) := by
  have hframe : (rxByte p b s).1 = s.withFramer (rxByte p b s).1 := rxByte_frame p s b
  calc rxByte p b (g s)
    _ = rxByte p b ((g s).withFramer s) := by rw [← hg]; rfl
    _ = ((g s).withFramer (rxByte p b s).1, (rxByte p b s).2) := rxByte_withFramer b s
    _ = (g (rxByte p b s).1, (rxByte p b s).2) := by rw [← hg, ← hframe]

/-- Two operations that answer next states, one after the other. -/
theorem runOps_pair {j : Instr} {t u : State} (hi : exec i s = .next t) (hj : exec j t = .next u) :
    runOps [i, j] s = some ([t.reply, u.reply], u) := by
  rw [runOps_cons_next s i [j] t hi, runOps_cons_next t j [] u hj]
  rfl

/-- The two operations of the other agents (R41): each is an update that leaves the framer and does not read the reply. -/
theorem exec_otherAgent (h : i = .caTick ∨ ∃ x, i = .caBusy x) :
    ∃ g, (∀ s, exec i s = .next (g s)) ∧ (∀ s, (g s).reply = .done [] .none) ∧
      (∀ s r, g { s with reply := r } = g s) ∧ leavesFramer g := by
  obtain rfl | ⟨x, rfl⟩ := h
  · exact ⟨_, fun _ => rfl, fun _ => rfl, fun _ _ => rfl, fun _ _ => rfl⟩
  · exact ⟨_, fun _ => rfl, fun _ => rfl, fun _ _ => rfl, fun _ _ => rfl⟩

/-- The agent of each operation (R41). -/
theorem issuer_cases (i : Instr) :
    (issuer i = .radio ∧ ∃ b, i = .caBusy b) ∨ (issuer i = .timer ∧ i = .caTick) ∨
      (issuer i = .host ∧ (∀ b, i ≠ .caBusy b) ∧ i ≠ .caTick) := by
  cases i with
  | caBusy b => exact .inl ⟨rfl, b, rfl⟩
  | caTick => exact .inr (.inl ⟨rfl, rfl⟩)
  | _ => exact .inr (.inr ⟨rfl, nofun, nofun⟩)

/-- The CSMA thread may issue what the host may (R147). -/
theorem mayIssue_hostThread (i : Instr) : mayIssue .hostThread i = mayIssue .host i := by
  obtain ⟨h, -⟩ | ⟨h, -⟩ | ⟨h, -⟩ := issuer_cases i <;> rw [mayIssue, mayIssue, h] <;> rfl

end Agents

/-! ### The invariant -/

section Invariant

variable {s t : State} {i : Instr}

/-- The slot timer is at most 655350, and 0 during a granted transmission (R33, R118). -/
def validTimer (s : State) : Prop := s.caSlotCnt.toNat ≤ 655350 ∧ (s.caTxActive = true → s.caSlotCnt = 0)

/-- The invariant by unit: the buffer, the status bits, the slot timer. -/
theorem inv_iff : s.Inv ↔ validBuf Config.params s ∧ legalStat s.kfStat ∧ validTimer s := by
  constructor
  · rintro ⟨hkeys, hlen, hreserved, hcode, herr, hslot, hgrant⟩
    exact ⟨⟨hkeys, hlen⟩, ⟨hreserved, hcode, herr⟩, hslot, hgrant⟩
  · rintro ⟨⟨hkeys, hlen⟩, ⟨hreserved, hcode, herr⟩, hslot, hgrant⟩
    exact ⟨hkeys, hlen, hreserved, hcode, herr, hslot, hgrant⟩

theorem validTimer_of_eq (hcnt : t.caSlotCnt = s.caSlotCnt) (htx : t.caTxActive = s.caTxActive) (h : validTimer s) :
    validTimer t := by
  rwa [validTimer, hcnt, htx]

theorem validTimer_tick (h : validTimer s) : validTimer (tick s) := by
  obtain ⟨hslot, hgrant⟩ := h
  refine ⟨?_, fun htx => ?_⟩
  · rw [tick_caSlotCnt, countDown_toNat]
    omega
  · rw [tick_caSlotCnt, hgrant htx]
    rfl

/-- The slot wait that a CA.CHECK loads is in range, for every ca_slot (R33, R121). -/
theorem validTimer_wait (htx : t.caTxActive = false) (hcnt : t.caSlotCnt = slotLoad s.caSlot) : validTimer t := by
  refine ⟨?_, by simp [htx]⟩
  have := s.caSlot.isLt
  rw [hcnt, slotLoad_toNat]
  omega

/-- Every operation that answers a next state keeps the invariant. -/
theorem inv_of_exec (hs : s.Inv) (h : exec i s = .next t) : t.Inv := by
  obtain ⟨hbuf, hstat, htimer⟩ := inv_iff.1 hs
  rw [inv_iff]
  cases effect_of_exec h with
  | received =>
    exact ⟨validBuf_rxBytes hbuf, legalStat_rxBytes hstat,
      validTimer_of_eq (rxBytes_fst_caSlotCnt ..) (rxBytes_fst_caTxActive ..) htimer⟩
  | reset => exact ⟨validBuf_of_empty rfl rfl, legalStat_zero, Nat.zero_le _, fun _ => rfl⟩
  | rxreset => exact ⟨validBuf_of_empty rfl rfl, hstat, htimer⟩
  | clrstat => exact ⟨hbuf, legalStat_clearStat hstat, htimer⟩
  | grant _ _ hcnt => exact ⟨hbuf, hstat, htimer.1, fun _ => hcnt⟩
  | wait _ htx => exact ⟨hbuf, hstat, validTimer_wait htx rfl⟩
  | txdone => exact ⟨hbuf, hstat, htimer.1, nofun⟩
  | tick => exact ⟨hbuf, hstat, validTimer_tick htimer⟩
  | _ => exact ⟨hbuf, hstat, htimer⟩

/-- The invariant is about the block alone: an agent's queue is free. -/
theorem inv_setQueue {a : Agent} {q : List Byte} (hs : s.Inv) : (s.setQueue a q).Inv := by
  have hunits := inv_iff.1 hs
  cases a <;> exact inv_iff.2 hunits

theorem inv_retire {a : Agent} {q : List Byte} (hs : s.Inv) : (retire a q s).Inv := by
  obtain h | h := retire_cases a q s <;> rw [h]
  · exact hs
  · exact inv_setQueue hs

theorem inv_sched {more : List Slot} (hs : s.Inv) : { s with sched := more }.Inv := by
  have hunits := inv_iff.1 hs
  exact inv_iff.2 hunits

end Invariant

end Sys2Proof.Machine

namespace Sys2Proof.Proofs

open Sys2Proof.Machine

/-- Settles O51: a step fetches nothing, or runs one operation and retires it, and each part keeps the invariant. -/
theorem stepKeepsTheInvariant : Obligations.StepKeepsTheInvariant := by
  intro s t hs h
  obtain ⟨more, rfl⟩ | ⟨a, i, rest, more, u, -, hu, rfl⟩ := step_next_cases h
  · exact inv_sched hs
  · exact inv_retire (inv_of_exec (inv_sched hs) hu)

/-- Settles O5, by the agent of each operation; the refusal is the one of `fetch`. -/
theorem eachAgentIssuesItsOwn : Obligations.EachAgentIssuesItsOwn := by
  refine ⟨fun i => ?_, fun i => ?_, fun i => ?_, mayIssue_hostThread, fun s a fmt more i rest hs hd hi => ?_⟩
  · obtain ⟨h, b, rfl⟩ | ⟨h, rfl⟩ | ⟨h, hbusy, htick⟩ := issuer_cases i <;> simp [mayIssue, *]
  · obtain ⟨h, b, rfl⟩ | ⟨h, rfl⟩ | ⟨h, hbusy, htick⟩ := issuer_cases i <;> simp [mayIssue, *]
  · obtain ⟨h, b, rfl⟩ | ⟨h, rfl⟩ | ⟨h, hbusy, htick⟩ := issuer_cases i <;> simp [mayIssue, *]
  · simp [step, fetch_of_decode hs hd, hi]

/-- Settles O27: the other agent's operation is an update that leaves the framer, and a host byte commutes with it. -/
theorem hostBytesCommuteWithOtherAgents : Obligations.HostBytesCommuteWithOtherAgents := by
  intro s b i hi
  obtain ⟨g, hexec, hreply, hignores, hleaves⟩ := exec_otherAgent hi
  have hbyte (u : State) : exec (.kfRxbyte b) u = .next
      { (rxByte Config.params b u).1 with reply := .done (rxByte Config.params b u).2 .none } := rfl
  have hsecond : exec (.kfRxbyte b) (g s) = .next { g (rxByte Config.params b s).1 with
      reply := .done (rxByte Config.params b s).2 .none } := by
    rw [hbyte, rxByte_comm hleaves]
  have hlast : exec i { (rxByte Config.params b s).1 with reply := .done (rxByte Config.params b s).2 .none } =
      .next (g (rxByte Config.params b s).1) := by
    rw [hexec, hignores]
  exact ⟨_, _, _, _, _, _, runOps_pair (hexec s) hsecond, runOps_pair (hbyte s) hlast,
    (hreply s).trans (hreply _).symm, rfl, rfl⟩

/-- Settles O52: every other operation leaves these registers as they are. -/
theorem framerAndCrcWriters : Obligations.FramerAndCrcWriters := by
  intro i s t h hreset
  cases effect_of_exec h with
  | received _ hbytes => exact ⟨fun hnone => by simp [hbytes] at hnone, fun _ _ => rxBytes_fst_crcReg ..⟩
  | reset => exact absurd rfl hreset
  | rxreset => exact ⟨fun _ hne => absurd rfl hne, fun _ _ => rfl⟩
  | crcInit => exact ⟨fun _ _ => ⟨rfl, rfl, rfl⟩, fun hne => absurd rfl hne⟩
  | crcByte b => exact ⟨fun _ _ => ⟨rfl, rfl, rfl⟩, fun _ hne => absurd rfl (hne b)⟩
  | _ => exact ⟨fun _ _ => ⟨rfl, rfl, rfl⟩, fun _ _ => rfl⟩

/-- Settles O53, bit by bit: what KF.CLRSTAT clears is what its mask selects, and received bytes clear no status bit. -/
theorem statusBitsAreSticky : Obligations.StatusBitsAreSticky := by
  intro i s t h
  cases effect_of_exec h with
  | received bytes hbytes =>
    obtain ⟨hcode, hreserved⟩ := rxBytes_errCode Config.params s bytes
    refine ⟨fun hnone => ?_, fun k hk hset hclear => ?_, fun hne => ?_, fun hne => absurd hreserved hne⟩
    · exact absurd (hbytes.symm.trans hnone) (by simp)
    · exact absurd ((getLsbD_rxBytes_kfStat hk hset).symm.trans hclear) (by simp)
    · have herr : ∃ e, .kfErr e ∈ (rxBytes Config.params bytes s).2 := by
        by_contra hnone
        exact hne (hcode fun e he => hnone ⟨e, he⟩)
      obtain ⟨e, he⟩ := herr
      exact .inr (.inr ⟨bytes, e, hbytes, he⟩)
  | reset => exact ⟨fun _ k hk => by simp at hk, fun _ _ _ _ => .inl rfl, fun _ => .inl rfl, fun _ => rfl⟩
  | clrstat m =>
    refine ⟨fun _ k => getLsbD_of_getLsbD_clearStat, fun k hk hset hclear => ?_, fun hne => ?_,
      fun hne => absurd reserved_clearStat hne⟩
    · have hmask : m.getLsbD k = true := by
        by_contra hm
        exact absurd ((getLsbD_clearStat_of_mask hk (by simpa using hm) hset).symm.trans hclear) (by simp)
      exact .inr ⟨m, rfl, hmask⟩
    · obtain ⟨hmask, hzero⟩ := errCode_clearStat_of_ne hne
      exact .inr (.inl ⟨m, rfl, hmask, hzero⟩)
  | _ =>
    exact ⟨fun _ _ => id, fun _ _ hset hclear => absurd (hset.symm.trans hclear) (by simp), fun hne => absurd rfl hne,
      fun hne => absurd rfl hne⟩

/-- Settles O54: the host bytes of an operation are counted one by one, and no other operation but KF.ENCODE counts. -/
theorem countersCount : Obligations.CountersCount := by
  intro i s t h hreset
  cases effect_of_exec h with
  | received _ hbytes =>
    rw [hbytes]
    exact ⟨rxBytes_kfRxBytes, rxBytes_kfErrors, fun _ => ⟨rxBytes_fst_kfTxFrames .., rxBytes_fst_kfTxBytes ..⟩⟩
  | reset => exact absurd rfl hreset
  | encode c p => exact ⟨by simp [hostBytes], by simp [Reply.events], fun hne => absurd rfl (hne c p)⟩
  | other hbytes => exact ⟨by simp [hbytes], by simp [Reply.events], fun _ => ⟨rfl, rfl⟩⟩
  | _ => exact ⟨by simp [hostBytes], by simp [Reply.events], fun _ => ⟨rfl, rfl⟩⟩

/-- Settles O55: each operation of the arbiter writes its own registers, and every other operation none of them. -/
theorem arbiterWriters : Obligations.ArbiterWriters := by
  intro i s t h hreset
  cases effect_of_exec h with
  | received => simp
  | reset => exact absurd rfl hreset
  | busy b => cases b <;> simp
  | _ => simp

end Sys2Proof.Proofs

/-! PROOF. The memory family: each way that a fetched operation can answer, as the interface passes it on (spec/20_memory.md R52,
spec/00_scope.md R13). -/

namespace Sys2Proof.Machine

section Running

variable {s t : State} {a : Agent} {i : Instr} {rest : List Byte}

/-- Only a hold leaves an operation with its agent: any other reply takes its bytes (R13). -/
theorem retire_eq_ite (a : Agent) (rest : List Byte) (t : State) :
    retire a rest t = if t.reply = .held then t else t.setQueue a rest := by
  cases hreply : t.reply with
  | idle => simp [retire, hreply]
  | held => simp [retire_held a rest t hreply]
  | done events result => simp [retire_done a rest t events result hreply]

theorem runFetched_of_next (he : exec i s = .next t) : runFetched a i rest s = .next (retire a rest t) := by
  simp [runFetched, he]

theorem runFetched_of_fault {f : Fault} (he : exec i s = .fault f) : runFetched a i rest s = .fault f := by
  simp [runFetched, he]

theorem runFetched_of_refused {r : Refusal} (he : exec i s = .refused r) : runFetched a i rest s = .refused r := by
  simp [runFetched, he]

end Running

end Sys2Proof.Machine

namespace Sys2Proof.Proofs

open Sys2Proof.Machine

/-- Settles O4, by the answer of the operation that the step runs. -/
theorem stepRunsTheDecodedOperation : Obligations.StepRunsTheDecodedOperation := by
  intro s a fmt more i rest hs hd hi
  have hrun : step s = runFetched a i rest { s with sched := more } := step_of_decode hs hd hi
  refine ⟨fun t ht => ?_, fun f hf => ?_, fun r hr => ?_⟩
  · rw [hrun, runFetched_of_next ht, retire_eq_ite]
  · exact hrun.trans (runFetched_of_fault hf)
  · exact hrun.trans (runFetched_of_refused hr)

end Sys2Proof.Proofs

/-! PROOF. The encoding family: the class of a command byte, reading back an encoded instruction format by format, the bytes that
are no operation, the delivery of a whole KISS frame, and the extension bits of an address header (spec/30_encoding.md R58 to
R72). -/

namespace Sys2Proof

/-! ### The class of a command byte -/

/-- The rows of R62's table, on the two fields of the byte. -/
theorem classify_commandByte (port code : BitVec 4) :
    classify (commandByte port code) =
      if port = 15 ∧ code = 15 then .ret
      else if code = 0 then .data else if code = 1 then .txDelay else if code = 2 then .persistence
      else if code = 3 then .slotTime else if code = 4 then .txTail else if code = 5 then .fullDuplex
      else if code = 6 then .setHardware else .unknown := by
  revert port code; decide

theorem classify_returnByte : classify returnByte = .ret := rfl

theorem commandByte_seven_bit3 (port : BitVec 4) : (commandByte port 7#4)[3] = false := by
  revert port; decide

/-! ### Reading back what the encoder wrote -/

section Reading

variable {i : Instr} (rest : List Byte)

theorem decodeOp_encode (hf : i.format = .op) (he : i.encodable = true) : decodeOp (encode i ++ rest) = .ok i rest := by
  cases i with
  | blkReset | kfRxreset | crcInit | caTxdone | caTick | caRxok => rfl
  | blkRdreg _ | kfRxbyte _ | kfClrstat _ | crcByte _ | caCheck _ => rfl
  | kfEncode c p => simp [encode, decodeOp, readSeq_encSeq]
  | axParse buf | crcCalc buf => simp [encode, decodeOp, readSeq_encSeq]
  | axPackaddr a last => simp [encode, decodeOp, readAddr_encAddr, readBool_encBool]
  | axUnpackaddr f => simp [encode, decodeOp, readField7_append f rest (by simpa [Instr.encodable] using he)]
  | axEncodeui dest src digis p =>
    have hfuel : digis.length < (encAddrs digis).length + ((encSeq p).length + rest.length) :=
      Nat.lt_add_right _ (encAddrs_length digis)
    simp [encode, decodeOp, readAddr_encAddr, readAddrs_encAddrs digis _ _ hfuel, readSeq_encSeq]
  | caSetcfg sel v => simp [encode, decodeOp, readU32_encU32]
  | caBusy b => simp [encode, decodeOp, readBool_encBool]
  | _ => cases hf

theorem decodeKissByte_encode (hf : i.format = .kissByte) : decodeKissByte (encode i ++ rest) = .ok i rest := by
  cases i with
  | kissByteFend | kissByteFesc | kissByteTfend | kissByteTfesc | kissByteEsc => rfl
  | _ => cases hf

theorem decodeKissCmd_encode (hf : i.format = .kissCmd) (he : i.encodable = true) :
    decodeKissCmd (encode i ++ rest) = .ok i rest := by
  cases i with
  | kissReturn p => simp [encode, decodeKissCmd, readSeq_encSeq, classify_returnByte]
  | kissUnknown7 port p =>
    simp [encode, decodeKissCmd, readSeq_encSeq, classify_commandByte, commandByte_seven_bit3]
  | kissUnknownHigh port low p =>
    obtain ⟨hclass, hbit, hlow⟩ := classify_high port low (by simpa [Instr.encodable, imp_iff_not_or] using he)
    simp [encode, decodeKissCmd, readSeq_encSeq, hclass, hbit, hlow, -BitVec.getLsbD_eq_getElem]
  | kissData port p | kissTxDelay port p | kissPersistence port p | kissSlotTime port p | kissTxTail port p
  | kissFullDuplex port p | kissSetHardware port p =>
    simp [encode, decodeKissCmd, readSeq_encSeq, classify_commandByte]
  | _ => cases hf

theorem decodeSethwSub_encode (hf : i.format = .sethwSub) : decodeSethwSub (encode i ++ rest) = .ok i rest := by
  cases i with
  | sethwSetFrequency _ _ | sethwSetBandwidth _ _ | sethwSetSpreading _ _ | sethwSetCodingRate _ _ | sethwSetPower _ _
  | sethwGetConfig _ _ | sethwSaveConfig _ _ | sethwResetConfig _ _ | sethwSetSyncWord _ _ =>
    simp [encode, decodeSethwSub, readPort_encPort, readSeq_encSeq]
  | _ => cases hf

theorem decodeAxField_encode {pos : AxPos} (hf : i.format = .axField pos) :
    decodeAxField pos (encode i ++ rest) = .ok i rest := by
  cases i with
  | ax25ControlUi | ax25PidNone => cases hf; rfl
  | ax25SsidByte ext ssid =>
    cases hf
    obtain ⟨hfixed, hext, hssid⟩ := ssidByte_fields ssid ext
    simp [encode, decodeAxField, hfixed, hext, hssid, -BitVec.getLsbD_eq_getElem]
  | ax25CallByte ch =>
    cases hf
    obtain ⟨hclear, hch⟩ := callByte_fields ch
    simp [encode, decodeAxField, hclear, hch, -BitVec.getLsbD_eq_getElem]
  | _ => cases hf

end Reading

/-! ### Bytes that are no operation -/

/-- R70 (a): a code out of R69's list takes the last branch of the decoder. -/
theorem decodeOp_of_not_mem {c : Byte} (t : List Byte) (hc : c ∉ listedOpcodes) :
    decodeOp (c :: t) = .bad (.reservedOpcode c) := by
  have hcode : c.toNat ∉ listedOpcodes.map BitVec.toNat := by
    rwa [List.mem_map_of_injective fun x y => BitVec.eq_of_toNat_eq]
  rw [decodeOp]
  split
  case h_20 => rfl
  all_goals rename_i h; exact absurd (h ▸ by decide) hcode

/-! ### Values of the AX.25 field bytes -/

theorem ssidByte_eq_ofNat (ssid : BitVec 4) (ext : Bool) :
    ssidByte ssid ext = BitVec.ofNat 8 (0x60 + 2 * ssid.toNat + ext.toNat) := by
  revert ssid ext; decide

theorem callByte_eq_ofNat (ch : BitVec 7) : callByte (ch.setWidth 8) = BitVec.ofNat 8 (2 * ch.toNat) := by
  revert ch; decide

end Sys2Proof

namespace Sys2Proof.Machine

/-! ### A step that is presented no operation -/

/-- Bytes that no row of their format reads stop the step with the decoder's reason. -/
theorem step_of_bad {s : State} {a : Agent} {fmt : Format} {more : List Slot} {e : DecodeError}
    (hs : s.sched = ⟨a, fmt⟩ :: more) (hq : s.queue a ≠ []) (hd : decode fmt (s.queue a) = .bad e) :
    step s = .refused (.undecodable e) := by
  simp [step, fetch, hs, hq, hd]

/-! ### The delivery of a whole frame -/

section Delivery

variable {s : State} {c : Byte}

theorem completeStat_of_ne (p : Params) (hc : c ≠ returnByte) (st : Byte) : completeStat p c st = setFrame st := by
  simp [completeStat, delivers, hc]

theorem completeEvents_of_ne (p : Params) (hc : c ≠ returnByte) (payload : List Byte) :
    completeEvents p c payload = [.frame (portOf c) (classify c) c payload] := by
  simp [completeEvents, delivers, hc]

/-- R99: a row that feeds a frame that fits, of any command byte but Return, delivers it with the port and class of that byte. -/
theorem deliversFrame_of_hostBytes {i : Instr} {p : List Byte} (hb : hostBytes i = some (wireFrame c p))
    (hc : c ≠ returnByte) (hs : startable s) (hl : p.length + 1 ≤ Config.params.rxCap) :
    deliversFrame i s (portOf c) (classify c) c p := by
  obtain ⟨buf, hrx, hread⟩ := rxBytes_wireFrame Config.params s c p hs hl
  refine ⟨_, exec_hostBytes i s _ hb, ?_, ?_⟩
  · rw [hrx, completeStat_of_ne _ hc, completeEvents_of_ne _ hc]
    rfl
  · rw [hrx]
    exact hread

/-- R96: a row that feeds a SetHardware frame delivers its payload as it is. -/
theorem deliversFrame_setHardware {i : Instr} {port : BitVec 4} {p : List Byte}
    (hb : hostBytes i = some (wireFrame (commandByte port 6) p)) (hs : startable s)
    (hl : p.length + 1 ≤ Config.params.rxCap) : deliversFrame i s port .setHardware (port ++ 6#4) p := by
  have hclass : classify (commandByte port 6) = .setHardware := by simp [classify_commandByte]
  have hne : commandByte port 6 ≠ returnByte := ne_of_apply_ne classify (by rw [hclass, classify_returnByte]; decide)
  have h := deliversFrame_of_hostBytes hb hne hs hl
  rwa [portOf_commandByte, hclass] at h

end Delivery

/-! ### The extension bits of an address header -/

theorem extBit_packAddr_zero (a : Addr) (last : Bool) (rest : List Byte) : extBit (packAddr a last ++ rest) 0 = last := by
  rw [extBit, List.getD_append _ _ _ _ (by simp)]
  exact packAddr_ext a last

theorem extBit_packAddr_succ (a : Addr) (last : Bool) (rest : List Byte) (j : Nat) :
    extBit (packAddr a last ++ rest) (j + 1) = extBit rest j := by
  rw [extBit, extBit, List.getD_append_right _ _ _ _ (by simp; omega), packAddr_length,
    show 7 * (j + 1) + 6 - 7 = 7 * j + 6 by omega]

/-- In fields of which only the last is packed as the final one, only that one has its extension bit. -/
theorem extBit_fields (front : List Addr) (final : Addr) (rest : List Byte) {j : Nat} (hj : j ≤ front.length) :
    extBit ((front.map fun a => packAddr a false).flatten ++ (packAddr final true ++ rest)) j = (j == front.length) := by
  induction front generalizing j with
  | nil =>
    obtain rfl : j = 0 := by simpa using hj
    exact extBit_packAddr_zero final true rest
  | cons a front ih =>
    rw [List.map_cons, List.flatten_cons, List.append_assoc]
    cases j with
    | zero => exact extBit_packAddr_zero ..
    | succ j =>
      rw [extBit_packAddr_succ, ih (by simpa using hj)]
      simp

/-- R109: the header's fields stand first in the frame, so their extension bits are the frame's. -/
theorem extBit_encodeUi (dest src : Addr) (digis : List Addr) (p : List Byte) {j : Nat} (hj : j < 2 + digis.length) :
    extBit (encodeUi dest src digis p) j = (j == 1 + digis.length) := by
  obtain ⟨front, final, hfields, hheader⟩ := addressHeader_fields dest src digis
  have hlen : front.length = 1 + digis.length := by
    have hcount := congrArg List.length hfields
    simp only [List.length_cons, List.length_append, List.length_nil] at hcount
    omega
  simp only [encodeUi, uiBody, hheader, List.append_assoc]
  rw [extBit_fields front final _ (by omega), hlen]

end Sys2Proof.Machine

namespace Sys2Proof.Proofs

open Sys2Proof.Machine

/-- Settles O1: each format's decoder reads back the instructions encoded in that format. -/
theorem decodeInvertsEncode : Obligations.DecodeInvertsEncode := by
  intro i rest he
  cases hf : i.format with
  | op => exact decodeOp_encode rest hf he
  | kissByte => exact decodeKissByte_encode rest hf
  | kissCmd => exact decodeKissCmd_encode rest hf he
  | sethwSub => exact decodeSethwSub_encode rest hf
  | axField pos => exact decodeAxField_encode rest hf

/-- Settles O2: the decoder's refusal is the step's. -/
theorem reservedOpSelectIsRefused : Obligations.ReservedOpSelectIsRefused := by
  intro c t hc
  have hd : decode .op (c :: t) = .bad (.reservedOpcode c) := decodeOp_of_not_mem t hc
  exact ⟨hd, fun s a more hs hq => step_of_bad hs (by simp [hq]) (by rw [hq, hd])⟩

/-- Settles O24: every row of the format, and every unlisted code, feeds the SetHardware frame of its payload. -/
theorem subCommandsPassThrough : Obligations.SubCommandsPassThrough := by
  intro s port args hs hl
  have hfits (code : Byte) : (code :: args).length + 1 ≤ Config.params.rxCap := hl
  exact ⟨deliversFrame_setHardware rfl hs (hfits 0x01), deliversFrame_setHardware rfl hs (hfits 0x02),
    deliversFrame_setHardware rfl hs (hfits 0x03), deliversFrame_setHardware rfl hs (hfits 0x04),
    deliversFrame_setHardware rfl hs (hfits 0x05), deliversFrame_setHardware rfl hs (hfits 0x06),
    deliversFrame_setHardware rfl hs (hfits 0x07), deliversFrame_setHardware rfl hs (hfits 0x08),
    deliversFrame_setHardware rfl hs (hfits 0x09), fun code hcode =>
      ⟨fun rest => decodeSethwSub_unlisted port code args rest hcode, deliversFrame_setHardware rfl hs (hfits code)⟩⟩

/-- Settles O25: the row and the list of KF.RXBYTEs are both the framer's receive operation on the bytes. -/
theorem frameRowsAreFeeds : Obligations.FrameRowsAreFeeds := by
  intro i s bytes hb
  obtain ⟨rs, r, hrun, hevents⟩ := runOps_feedOps s bytes
  exact ⟨rs, _, hrun, by rw [exec_hostBytes i s bytes hb, hevents]⟩

/-- Settles O34, by the address header's fields: only the last is packed as the final address. -/
theorem uiFrameShape : Obligations.UiFrameShape := by
  intro s dest src digis p hk
  have hexec : exec (.axEncodeui dest src digis p) s = finish s [] (.bytes (encodeUi dest src digis p)) := if_pos hk
  exact ⟨_, _, hexec, rfl, encodeUi_length dest src digis p, fun _ => extBit_encodeUi dest src digis p⟩

/-- Settles O3, by running the decoder on each word. -/
theorem writtenWordsDecode : Obligations.WrittenWordsDecode := by
  unfold Obligations.WrittenWordsDecode
  decide

/-- Settles O12, by the class of a composed command byte. -/
theorem classOfCommandByte : Obligations.ClassOfCommandByte := classify_commandByte

/-- Settles O26: each row is the receive operation on its byte, which answers a next state. -/
theorem namedBytesAreReceived : Obligations.NamedBytesAreReceived := fun _ =>
  ⟨⟨_, rfl, rfl⟩, ⟨_, rfl, rfl⟩, ⟨_, rfl, rfl⟩, ⟨_, rfl, rfl⟩, ⟨_, rfl, rfl⟩⟩

/-- Settles O28, by the values of the two field bytes that carry operands. -/
theorem axFieldBytes : Obligations.AxFieldBytes := by
  intro s ext ssid ch
  refine ⟨rfl, rfl, ?_, ?_⟩
  · rw [← ssidByte_eq_ofNat]
    rfl
  · rw [← callByte_eq_ofNat]
    rfl

end Sys2Proof.Proofs

/-! PROOF. The KISS framer family: a KF.RXBYTE that appends or fails, the completion of a Return frame, the bits that
KF.CLRSTAT leaves, the length of an escaped frame, and the delivery of a frame of any command class (spec/40_kiss_framer.md
R74 to R100). -/

namespace Sys2Proof.Machine

/-! ### One host byte -/

section OneByte

variable {s : State} {b : Byte}

/-- KF.RXBYTE is the framer's receive operation, and answers the events of that operation. -/
theorem exec_kfRxbyte {k : KfStep} (h : rxByte Config.params b s = k) :
    exec (.kfRxbyte b) s = .next { k.1 with reply := .done k.2 .none } := by
  rw [← h]
  rfl

/-- R78: in WaitFend every byte but FEND and 0x1B is discarded. -/
theorem rxByte_waitFend_of_ne (p : Params) (hs : s.kfState = .waitFend) (hfend : b ≠ fend) (hesc : b ≠ escSentinel) :
    rxByte p b s = (countRx s, []) := by
  rw [rxByte_waitFend p s b hs, rxWaitFend, if_neg hfend, if_neg hesc]

/-- R82: in InFrame every byte but FEND and FESC is appended. -/
theorem rxByte_inFrame_of_ne (p : Params) (hs : s.kfState = .inFrame) (hfend : b ≠ fend) (hfesc : b ≠ fesc) :
    rxByte p b s = append p b (countRx s) := by
  rw [rxByte_inFrame p s b hs, rxInFrame, if_neg hfend, if_neg hfesc]

/-- R86: in Escaped every byte but TFEND and TFESC is an invalid escape. -/
theorem rxByte_escaped_of_ne (p : Params) (hs : s.kfState = .escaped) (htfend : b ≠ tfend) (htfesc : b ≠ tfesc) :
    rxByte p b s = framingError .badEsc (countRx s) := by
  rw [rxByte_escaped p s b hs, rxEscaped, if_neg htfend, if_neg htfesc]

/-- R75: a received byte that appends `v` writes it at index kf_len while the buffer has room. -/
theorem appends_of_rxByte {v : Byte} (h : rxByte Config.params b s = append Config.params v (countRx s))
    (hroom : s.kfLen < Config.params.rxCap) : appends b v s := by
  have hwrite : rxByte Config.params b s = ({ countRx s with
      kfBuf := memWrite s.kfBuf s.kfLen v, kfLen := s.kfLen + 1, kfState := .inFrame }, []) := h.trans (if_pos hroom)
  exact ⟨_, exec_kfRxbyte hwrite, rfl, fun a => memRead_memWrite s.kfBuf s.kfLen a v⟩

/-- R135: setErr writes ERR and ERRCODE and no other bit. -/
theorem setErr_bits (e : KfErr) (st : Byte) : (setErr e st).getLsbD 1 = true ∧ (setErr e st).extractLsb' 3 2 = e.code ∧
    (setErr e st).getLsbD 0 = st.getLsbD 0 ∧ (setErr e st).getLsbD 2 = st.getLsbD 2 ∧
    (setErr e st).extractLsb' 5 3 = st.extractLsb' 5 3 := by
  cases e <;> (revert st; decide)

/-- R135: a received byte that is a framing error leaves the recovery's state, whichever error it is. -/
theorem failsFraming_of_rxByte {e : KfErr} (h : rxByte Config.params b s = framingError e (countRx s)) :
    failsFraming b e e.code s :=
  ⟨_, exec_kfRxbyte h, rfl, setErr_bits e s.kfStat⟩

end OneByte

/-! ### The completion of a frame -/

/-- The completion of a frame leaves ERR (R79, R99). -/
theorem getLsbD_one_completeStat (p : Params) (c st : Byte) : (completeStat p c st).getLsbD 1 = st.getLsbD 1 :=
  completeStat_keeps (P := fun x => x.getLsbD 1 = st.getLsbD 1) (fun x hx => by simpa [setExit] using hx)
    (fun x hx => by simpa [setFrame] using hx) c rfl

/-- R79, R97: a Return frame sets EXIT, and FRAME when it is delivered. -/
theorem completeStat_return (p : Params) (st : Byte) :
    completeStat p 0xFF st = st ||| (if p.returnEmitsFrame then 0x05 else 0x01) := by
  cases h : p.returnEmitsFrame with
  | true => simp [completeStat, delivers, returnByte, h, setFrame, setExit, BitVec.or_assoc]
  | false => simp [completeStat, delivers, returnByte, h, setExit]

theorem completeEvents_return (p : Params) (payload : List Byte) : completeEvents p 0xFF payload =
    (if p.returnEmitsFrame then [.frame 15 .ret 0xFF payload] else []) ++ [.exit] := by
  cases h : p.returnEmitsFrame with
  | true =>
    have hport : portOf 0xFF#8 = 15 := by decide
    have hclass : classify 0xFF#8 = .ret := by decide
    simp [completeEvents, delivers, returnByte, h, hport, hclass]
  | false => simp [completeEvents, delivers, returnByte, h]

/-! ### The status bits that KF.CLRSTAT leaves -/

/-- R88, as the three clearings in turn: a bit stays where no selected clearing takes it. -/
theorem getLsbD_clearStat (m st : Byte) (k : Nat) : (clearStat m st).getLsbD k =
    (st.getLsbD k && (!m.getLsbD 0 || (0xFE : Byte).getLsbD k) && (!m.getLsbD 1 || (0xE5 : Byte).getLsbD k) &&
      (!m.getLsbD 2 || (0xFB : Byte).getLsbD k)) := by
  have hclear (c : Bool) (w x : Byte) : (if c then x &&& w else x).getLsbD k = (x.getLsbD k && (!c || w.getLsbD k)) := by
    cases c <;> simp
  simp only [clearStat, hclear]

end Sys2Proof.Machine

namespace Sys2Proof

/-! ### The length of an escaped frame -/

/-- R59: FEND and FESC take two bytes on the wire, every other byte one. -/
theorem length_esc (b : Byte) : (esc b).length = if b = fend ∨ b = fesc then 2 else 1 := by
  unfold esc
  split_ifs <;> simp_all

/-- An escaped list is as long as the list and its bytes that need an escape. -/
theorem length_flatMap_esc (p : List Byte) :
    (p.flatMap esc).length = p.length + p.countP (fun b => b == fend || b == fesc) := by
  induction p with
  | nil => rfl
  | cons b p ih =>
    rw [List.flatMap_cons, List.length_append, ih, length_esc, List.countP_cons, List.length_cons]
    simp only [Bool.or_eq_true, beq_iff_eq]
    split_ifs <;> omega

/-- R100: FEND at each end, and an escape for the command byte and for each payload byte that needs one. -/
theorem length_wireFrame (c : Byte) (p : List Byte) : (wireFrame c p).length =
    2 + (if c = fend ∨ c = fesc then 2 else 1) + p.length + p.countP (fun b => b == fend || b == fesc) := by
  simp only [wireFrame, List.length_append, List.length_singleton, length_esc, length_flatMap_esc]
  omega

end Sys2Proof

namespace Sys2Proof.Machine

/-! ### A frame of each command class -/

/-- A row that feeds a frame of command byte `port ++ code`, of any class but Return, delivers it on that port. -/
theorem deliversFrame_commandByte {i : Instr} {s : State} {port code : BitVec 4} {cmd : Cmd} {p : List Byte}
    (hb : hostBytes i = some (wireFrame (commandByte port code) p)) (hs : startable s)
    (hl : p.length + 1 ≤ Config.params.rxCap) (hclass : classify (commandByte port code) = cmd) (hcmd : cmd ≠ .ret) :
    deliversFrame i s port cmd (port ++ code) p := by
  have hne : commandByte port code ≠ returnByte := ne_of_apply_ne classify (by rwa [hclass, classify_returnByte])
  have h := deliversFrame_of_hostBytes hb hne hs hl
  rwa [portOf_commandByte, hclass] at h

end Sys2Proof.Machine

namespace Sys2Proof.Proofs

open Sys2Proof.Machine

/-- Settles O20: KF.ENCODE leaves the framer's receive registers, so its output fed is a whole frame received from the start,
and that completes with its own contents (`rxBytes_wireFrame`, by induction over the payload). -/
theorem fedEncodingRoundTrips : Obligations.FedEncodingRoundTrips := by
  intro s c p hs hl hc
  obtain ⟨t, hexec, hreply, hstart, hstat⟩ : ∃ t, exec (.kfEncode c p) s = .next t ∧
      t.reply = .done [] (.bytes (wireFrame c p)) ∧ startable t ∧ t.kfStat = s.kfStat := ⟨_, rfl, rfl, hs, rfl⟩
  obtain ⟨buf, hrx, -⟩ := rxBytes_wireFrame Config.params t c p hstart hl
  obtain ⟨rs, r, hrun, hevents⟩ := runOps_feedOps t (wireFrame c p)
  refine ⟨_, t, rs, _, hexec, hreply, hrun, ?_, ?_, ?_⟩
  · rw [hevents, hrx]
    exact completeEvents_of_ne Config.params hc p
  · rw [hrx]
  · rw [hrx, State.errFlag, State.errFlag, ← hstat]
    exact getLsbD_one_completeStat ..

/-- Settles O11: the completion's status and events, for a Return frame and for every other. -/
theorem fendCompletesTheFrame : Obligations.FendCompletesTheFrame := by
  intro s c p hs hl hb
  refine (exec_kfRxbyte (rxByte_complete Config.params s c p hs hl hb)).trans ?_
  by_cases hc : c = 0xFF
  · subst hc
    have hreturn : ¬((0xFF : Byte) ≠ 0xFF) := not_not.2 rfl
    rw [completeStat_return, completeEvents_return, if_neg hreturn, if_neg hreturn]
    split_ifs <;> rfl
  · rw [completeStat_of_ne _ hc, completeEvents_of_ne _ hc, if_pos hc, if_pos hc]
    rfl

/-- Settles O14: each of the three bytes is an append, which has room or is the overflow error. -/
theorem appendOrOverflow : Obligations.AppendOrOverflow := by
  intro s b v h
  have happend : rxByte Config.params b s = append Config.params v (countRx s) := by
    obtain ⟨hs, hfend, hfesc, rfl⟩ | ⟨hs, rfl, rfl⟩ | ⟨hs, rfl, rfl⟩ := h
    · exact rxByte_inFrame_of_ne _ hs hfend hfesc
    · exact (rxByte_escaped _ s tfend hs).trans (if_pos rfl)
    · exact (rxByte_escaped _ s tfesc hs).trans ((if_neg (by decide)).trans (if_pos rfl))
  refine ⟨appends_of_rxByte happend, fun hfull => failsFraming_of_rxByte (e := .overflow) ?_⟩
  exact happend.trans (if_neg (Nat.not_lt.2 hfull.ge))

/-- Settles O15: the byte is the framing error BADESC. -/
theorem invalidEscape : Obligations.InvalidEscape := fun _ _ hs htfend htfesc =>
  failsFraming_of_rxByte (rxByte_escaped_of_ne _ hs htfend htfesc)

/-- Settles O17, bit by bit: the masks of the three clearings take the bits that R88 names. -/
theorem clrStatClearsSelectedBits : Obligations.ClrStatClearsSelectedBits := by
  intro s m
  refine ⟨_, rfl, rfl, fun k hk => ?_⟩
  refine (getLsbD_clearStat m s.kfStat k).trans ?_
  interval_cases k <;> simp [-BitVec.getLsbD_eq_getElem, Bool.and_comm]

/-- Settles O19: the output is a wire frame. -/
theorem encodedLength : Obligations.EncodedLength := fun _ c p => ⟨_, _, rfl, rfl, length_wireFrame c p⟩

/-- Settles O22: every row feeds the frame of its command byte, whose class is the row's and not Return. -/
theorem commandFramesAreDelivered : Obligations.CommandFramesAreDelivered := by
  intro s port p hs hl
  refine ⟨deliversFrame_commandByte rfl hs hl ?_ nofun, deliversFrame_commandByte rfl hs hl ?_ nofun,
    deliversFrame_commandByte rfl hs hl ?_ nofun, deliversFrame_commandByte rfl hs hl ?_ nofun,
    deliversFrame_commandByte rfl hs hl ?_ nofun, deliversFrame_commandByte rfl hs hl ?_ nofun,
    deliversFrame_setHardware rfl hs hl, deliversFrame_commandByte rfl hs hl ?_ nofun, fun low hlow =>
      deliversFrame_commandByte rfl hs hl (classify_high port low hlow).1 nofun⟩
  all_goals simp [classify_commandByte]

/-- Settles O23: the frame of command byte 0xFF completes as `rxBytes_wireFrame` says, with the status and events of a Return
frame. -/
theorem returnFrameRaisesExit : Obligations.ReturnFrameRaisesExit := by
  intro s p hs hl
  obtain ⟨buf, hrx, hread⟩ := rxBytes_wireFrame Config.params s 0xFF p hs hl
  rw [completeStat_return, completeEvents_return] at hrx
  have hexec := exec_hostBytes (.kissReturn p) s (wireFrame 0xFF p) rfl
  rw [hrx] at hexec
  exact ⟨_, hexec, rfl, hread⟩

/-- Settles O10, by the three branches of WaitFend. -/
theorem byteOutsideAFrame : Obligations.ByteOutsideAFrame := by
  intro s hs
  have hfend : rxByte Config.params fend s = (openFrame (countRx s), []) := rxByte_waitFend _ s fend hs
  have hesc : rxByte Config.params escSentinel s = ({ countRx s with kfStat := setExit s.kfStat }, [.exit]) :=
    rxByte_waitFend _ s escSentinel hs
  exact ⟨⟨_, exec_kfRxbyte hfend, rfl⟩, exec_kfRxbyte hesc, fun b hne hne' =>
    exec_kfRxbyte (rxByte_waitFend_of_ne _ hs hne hne')⟩

/-- Settles O13, by the branches of InFrame. -/
theorem idleFendAndFesc : Obligations.IdleFendAndFesc := by
  intro s hs
  have hfend (hl : s.kfLen = 0) : rxByte Config.params fend s = (countRx s, []) :=
    (rxByte_inFrame _ s fend hs).trans (if_pos hl)
  have hfesc : rxByte Config.params fesc s = ({ countRx s with kfState := .escaped }, []) := rxByte_inFrame _ s fesc hs
  exact ⟨fun hl => exec_kfRxbyte (hfend hl), exec_kfRxbyte hfesc⟩

/-- Settles O16: the idle framer idled is itself. -/
theorem rxResetIdlesTheFramer : Obligations.RxResetIdlesTheFramer := fun _ => ⟨_, rfl, rfl, rfl⟩

/-- Settles O18: the escape map by its branches, and the output as the operation builds it. -/
theorem encodeBuildsTheWireFrame : Obligations.EncodeBuildsTheWireFrame := by
  refine ⟨⟨rfl, rfl, fun b hfend hfesc => ?_⟩, fun s c p => ?_⟩
  · exact (if_neg hfend).trans (if_neg hfesc)
  · rw [← List.flatMap_def]
    rfl

end Sys2Proof.Proofs

/-! PROOF. The AX.25 codec family: a packed address byte by byte, the fields a scan finds by their position in the buffer, the
parse that follows from them, and the fields of a UI frame (spec/41_ax25_codec.md R101 to R110). -/

namespace Sys2Proof.Machine

/-! ### The packed address -/

/-- R102: the padded callsign, character by character. -/
theorem padCallsign_eq_map_range (cs : List Byte) : padCallsign cs = (List.range 6).map fun k => cs.getD k 0x20 := by
  refine List.ext_getElem? fun k => ?_
  by_cases hk : k < 6
  · rw [padCallsign_getElem? cs k hk, List.getElem?_map, List.getElem?_range hk, Option.map_some]
  · rw [List.getElem?_eq_none (by simpa using hk), List.getElem?_eq_none (by simpa using hk)]

/-- R102: masking the SSID to 4 bits keeps its low half. -/
theorem ssidByte_setWidth (ssid : Byte) (last : Bool) :
    ssidByte (ssid.setWidth 4) last = 0x60 ||| ((ssid &&& 0x0F) <<< (1 : Nat)) ||| (if last then 1 else 0) := by
  have hmask : (ssid.setWidth 4).setWidth 8 = ssid &&& 0x0F := by
    revert ssid; decide
  rw [ssidByte, hmask]
  cases last <;> rfl

/-- R104: the text form, with the second digit of an SSID of 10 or more as the SSID less 10, in ASCII. -/
theorem textForm_eq (ch : List Byte) (ssid : Byte) :
    textForm ch ssid = if ssid = 0 then ch
      else ch ++ [0x2D] ++ (if ssid.toNat < 10 then [0x30 + ssid] else [0x31, 0x26 + ssid]) := by
  have hdigit : 0x30 + (ssid - 10) = 0x26 + ssid := by bv_omega
  rw [textForm, decimalAscii, hdigit]

/-- R103: AX.UNPACKADDR of a Field7 answers its address and the text form. -/
theorem givesOnly_axUnpackaddr {s : State} {f : List Byte} (h : f.length = 7) : givesOnly (.axUnpackaddr f) s
    (.address (unpackAddr f).callsign (unpackAddr f).ssid (textForm (unpackAddr f).callsign (unpackAddr f).ssid)) :=
  if_pos h

theorem unpackAddr_packAddr_of_plainAddr {a : Addr} (last : Bool) (h : plainAddr a) : unpackAddr (packAddr a last) = a := by
  obtain ⟨-, hlen, hch, hssid⟩ := h
  exact unpackAddr_packAddr a last hlen hch hssid

/-! ### The scan, field by field -/

section Scan

variable {buf : List Byte} {fuel : Nat}

theorem fieldOf_drop (buf : List Byte) (j : Nat) : fieldOf (buf.drop 7) j = fieldOf buf (j + 1) := by
  rw [fieldOf, fieldOf, List.drop_drop, Nat.mul_succ, Nat.add_comm]

theorem extBit_drop (buf : List Byte) (j : Nat) : extBit (buf.drop 7) j = extBit buf (j + 1) := by
  rw [extBit, extBit, List.getD_eq_getElem?_getD, List.getD_eq_getElem?_getD, List.getElem?_drop]
  congr 3
  omega

/-- R105: a scan at a whole field ends there when the field has its extension bit, and else goes on behind it. -/
theorem scanFields_succ (h : 7 ≤ buf.length) :
    scanFields (fuel + 1) buf = if extBit buf 0 then ([fieldOf buf 0], true)
      else (fieldOf buf 0 :: (scanFields fuel (buf.drop 7)).1, (scanFields fuel (buf.drop 7)).2) := by
  have hlen : (fieldOf buf 0).length = 7 := by simpa [fieldOf] using h
  have hext : ((fieldOf buf 0).getD 6 0).getLsbD 0 = extBit buf 0 := by
    simp [fieldOf, extBit]
  have hscan := scanFields_cons fuel (fieldOf buf 0) (buf.drop 7) hlen
  rwa [hext, fieldOf, Nat.mul_zero, List.drop_zero, List.take_append_drop] at hscan

/-- R105: a scan that meets no extension bit finds no last field. -/
theorem scanFields_snd_of_extBit_false (fuel : Nat) (buf : List Byte)
    (h : ∀ j, j < fuel → 7 * (j + 1) ≤ buf.length → extBit buf j = false) : (scanFields fuel buf).2 = false := by
  induction fuel generalizing buf with
  | zero => rfl
  | succ n ih =>
    by_cases hwhole : 7 ≤ buf.length
    · rw [scanFields_succ hwhole, h 0 (Nat.succ_pos n) hwhole]
      refine ih (buf.drop 7) fun j hj hl => ?_
      rw [List.length_drop] at hl
      rw [extBit_drop]
      exact h (j + 1) (by omega) (by omega)
    · rw [scanFields_short _ _ (by omega)]

/-- R105: a scan finds the fields up to the first that has its extension bit. -/
theorem scanFields_of_first_extBit {j : Nat} (hj : j < fuel) (hl : 7 * (j + 1) ≤ buf.length) (hext : extBit buf j = true)
    (hfirst : ∀ k, k < j → extBit buf k = false) :
    scanFields fuel buf = ((List.range (j + 1)).map (fieldOf buf), true) := by
  induction j generalizing fuel buf with
  | zero =>
    obtain ⟨n, rfl⟩ := Nat.exists_eq_add_one.2 hj
    rw [scanFields_succ hl, hext]
    rfl
  | succ j ih =>
    obtain ⟨n, rfl⟩ := Nat.exists_eq_add_one.2 (Nat.zero_lt_of_lt hj)
    have hrest : scanFields n (buf.drop 7) = ((List.range (j + 1)).map (fieldOf (buf.drop 7)), true) := by
      refine ih (by omega) (by rw [List.length_drop]; omega) (by rw [extBit_drop, hext]) fun k hk => ?_
      rw [extBit_drop]
      exact hfirst (k + 1) (by omega)
    have hfields : (List.range (j + 1)).map (fieldOf (buf.drop 7)) =
        ((List.range (j + 1)).map Nat.succ).map (fieldOf buf) := by
      rw [List.map_map]
      exact List.map_congr_left fun k _ => fieldOf_drop buf k
    rw [scanFields_succ (by omega), hfirst 0 (Nat.succ_pos j), hrest, hfields, List.range_succ_eq_map (n := j + 1),
      List.map_cons]
    rfl

end Scan

/-! ### The parse -/

section Parse

variable {s : State} {buf : List Byte}

theorem parseFrame_short (h : buf.length < 14) : parseFrame buf = .invalid .short := if_pos h

theorem parseFrame_unterminated (hl : 14 ≤ buf.length) (h : (scanFields Config.maxAddrFields buf).2 = false) :
    parseFrame buf = .invalid .unterminated :=
  (if_neg (Nat.not_lt.2 hl)).trans (if_pos h)

theorem parseFrame_fewFields {f : List Byte} (hl : 14 ≤ buf.length)
    (h : scanFields Config.maxAddrFields buf = ([f], true)) : parseFrame buf = .invalid .fewFields := by
  rw [parseFrame, if_neg (Nat.not_lt.2 hl), h]
  rfl

/-- R105: a scan of two fields or more is a valid parse, of what its fields unpack to. -/
theorem parseFrame_ok {fields : List (List Byte)} {dest src : Addr} {digis : List Addr} (hl : 14 ≤ buf.length)
    (hscan : scanFields Config.maxAddrFields buf = (fields, true)) (hmap : fields.map unpackAddr = dest :: src :: digis) :
    parseFrame buf = .ok ⟨digis.length + 2, dest, src, digis, headerLength (digis.length + 2) buf.length⟩ := by
  obtain ⟨f, _, rfl, rfl, htail⟩ := List.map_eq_cons_iff.1 hmap
  obtain ⟨g, fs, rfl, rfl, rfl⟩ := List.map_eq_cons_iff.1 htail
  rw [parseFrame, if_neg (Nat.not_lt.2 hl), hscan, List.length_map]
  rfl

/-- R105: a valid parse answers its fields and changes nothing. -/
theorem givesOnly_axParse {f : ParsedFields} (h : parseFrame buf = .ok f) :
    givesOnly (.axParse buf) s (.parsed ⟨true, 0, f⟩) := by
  have hexec : exec (.axParse buf) s = execAxParse buf s := rfl
  rw [givesOnly, hexec, execAxParse, h]
  rfl

/-- R106: an invalid parse answers its reason and changes no register. -/
theorem exec_axParse_invalid {e : ParseErr} (h : parseFrame buf = .invalid e) :
    ∃ t f, exec (.axParse buf) s = .next t ∧
      t = { s with freeCtr := t.freeCtr, reply := .done [] (.parsed ⟨false, e.reason, f⟩) } := by
  have hexec : exec (.axParse buf) s = execAxParse buf s := rfl
  rw [hexec, execAxParse, h]
  exact ⟨_, Config.freeFields s.freeCtr, rfl, rfl⟩

end Parse

/-! ### The UI frame -/

section UiFrame

variable {s : State} {dest src : Addr} {digis : List Addr}

/-- R107: the digipeater fields by their index. -/
theorem packDigis_eq_flatMap (digis : List Addr) : packDigis digis =
    (List.range digis.length).flatMap fun j => packAddr (digis.getD j default) (j + 1 == digis.length) := by
  induction digis with
  | nil => rfl
  | cons d t ih =>
    have hcons : packDigis (d :: t) = packAddr d t.isEmpty ++ packDigis t := by cases t <;> simp [packDigis]
    rw [hcons, ih, List.length_cons, List.range_succ_eq_map, List.flatMap_cons, List.flatMap_map]
    cases t <;> simp

/-- R107: AX.ENCODEUI with at most MAX_DIGIS digipeaters answers its frame. -/
theorem givesOnly_axEncodeui (p : List Byte) (h : digis.length ≤ 8) :
    givesOnly (.axEncodeui dest src digis p) s (.bytes (encodeUi dest src digis p)) := if_pos h

/-- R110: the scan of a UI frame finds fields that unpack to its addresses. -/
theorem scanFields_encodeUi (p : List Byte) (hdest : plainAddr dest) (hsrc : plainAddr src)
    (hdigis : ∀ d ∈ digis, plainAddr d) (hk : digis.length ≤ 8) :
    ∃ fields, scanFields Config.maxAddrFields (encodeUi dest src digis p) = (fields, true) ∧
      fields.map unpackAddr = dest :: src :: digis := by
  obtain ⟨front, final, hfields, hheader⟩ := addressHeader_fields dest src digis
  have hplain : ∀ a ∈ front ++ [final], plainAddr a := by
    rw [← hfields]
    simpa using ⟨hdest, hsrc, hdigis⟩
  have hlen : front.length < Config.maxAddrFields := by
    have := congrArg List.length hfields
    simp only [List.length_cons, List.length_append, List.length_nil] at this
    rw [Config.maxAddrFields]
    omega
  refine ⟨front.map (fun a => packAddr a false) ++ [packAddr final true], ?_, ?_⟩
  · simp only [encodeUi, uiBody, hheader, List.append_assoc]
    refine scanFields_found _ _ _ _ ?_ ⟨packAddr_length .., packAddr_ext ..⟩ (by simpa using hlen)
    intro f hf
    obtain ⟨a, -, rfl⟩ := List.mem_map.1 hf
    exact ⟨packAddr_length .., packAddr_ext ..⟩
  · rw [hfields, List.map_append, List.map_map]
    congr 1
    · refine (List.map_congr_left fun a ha => ?_).trans (List.map_id _)
      exact unpackAddr_packAddr_of_plainAddr false (hplain a (List.mem_append_left _ ha))
    · rw [List.map_singleton, unpackAddr_packAddr_of_plainAddr true (hplain final (by simp))]

end UiFrame

end Sys2Proof.Machine

namespace Sys2Proof.Proofs

open Sys2Proof.Machine

/-- Settles O35: the scan of the frame finds its address fields (`scanFields_encodeUi`), and the control and PID bytes stand
behind them. -/
theorem uiFrameParsesBack : Obligations.UiFrameParsesBack := by
  intro s dest src digis p hdest hsrc hdigis hk
  refine ⟨_, _, givesOnly_axEncodeui p hk, rfl, ?_⟩
  obtain ⟨fields, hscan, hmap⟩ := scanFields_encodeUi p hdest hsrc hdigis hk
  have hlen := encodeUi_length dest src digis p
  have hheader : headerLength (digis.length + 2) (encodeUi dest src digis p).length = 7 * (2 + digis.length) + 2 := by
    rw [headerLength, if_pos (by omega), Nat.add_comm 2]
  have hparse := parseFrame_ok (by omega) hscan hmap
  rw [hheader, Nat.add_comm digis.length] at hparse
  exact givesOnly_axParse hparse

/-- Settles O29, by the characters of the padded callsign and the masked SSID. -/
theorem packAddress : Obligations.PackAddress := by
  intro s a last
  refine ⟨?_, rfl⟩
  rw [packAddr, padCallsign_eq_map_range, List.map_map, ssidByte_setWidth]
  rfl

/-- Settles O30: the trimmed callsign is what `trimSpaces_spec` says. -/
theorem unpackAddress : Obligations.UnpackAddress := by
  intro s f
  refine ⟨fun hf => ?_, fun hf => if_neg hf⟩
  obtain ⟨k, hpad, hlast⟩ := trimSpaces_spec ((f.take 6).map fun (b : Byte) => b >>> (1 : Nat))
  refine ⟨_, k, _, ?_, hpad, hlast, rfl, rfl⟩
  rw [← textForm_eq]
  exact givesOnly_axUnpackaddr hf

/-- Settles O31: the round trip of the packed field (`unpackAddr_packAddr`). -/
theorem addressRoundTrips : Obligations.AddressRoundTrips := by
  intro s a last ha
  have hunpack (t : State) := givesOnly_axUnpackaddr (s := t) (packAddr_length a last)
  rw [unpackAddr_packAddr_of_plainAddr last ha] at hunpack
  exact ⟨_, _, _, _, rfl, rfl, hunpack _, rfl, rfl⟩

/-- Settles O32: the scan's result in each case, and the verdict that follows from it. -/
theorem parseVerdict : Obligations.ParseVerdict := by
  intro s buf
  refine ⟨fun hl => ?_, fun hl hnone => ?_, fun hl hext => ?_, fun j hj hj10 hl hext hfirst => ?_⟩
  · exact exec_axParse_invalid (parseFrame_short hl)
  · exact exec_axParse_invalid (parseFrame_unterminated hl (scanFields_snd_of_extBit_false _ _ hnone))
  · have hscan := scanFields_of_first_extBit (fuel := 10) (by decide) (by omega) hext nofun
    exact exec_axParse_invalid (parseFrame_fewFields hl hscan)
  · obtain ⟨n, rfl⟩ := Nat.exists_eq_add_one.2 hj
    have hscan := scanFields_of_first_extBit hj10 hl hext hfirst
    have hparse := parseFrame_ok (by omega) hscan (dest := unpackAddr (fieldOf buf 0)) (src := unpackAddr (fieldOf buf 1))
      (digis := (List.range n).map fun k => unpackAddr (fieldOf buf (k + 2))) (by simp [List.range_succ_eq_map])
    rw [List.length_map, List.length_range] at hparse
    exact givesOnly_axParse hparse

/-- Settles O33: the digipeater fields by their index, and the refusal. -/
theorem encodeUiFrame : Obligations.EncodeUiFrame := by
  intro s dest src digis p
  refine ⟨fun hk => ⟨uiBody dest src digis p, ?_, givesOnly_axEncodeui p hk⟩, fun hk => if_neg (Nat.not_le.2 hk)⟩
  rw [uiBody, addressHeader, packDigis_eq_flatMap]
  cases digis <;> rfl

end Sys2Proof.Proofs

/-! PROOF. The CRC family: the iterations of one byte's fold, a list folded byte by byte, and the register after one CRC.BYTE for
each byte of a list (spec/42_crc16.md R111 to R117). -/

namespace Sys2Proof.Machine

/-- R111: the counted recursion is the iterate of one shift. -/
theorem crcShifts_eq_iterate (n : Nat) (c : U16) : crcShifts n c = crcShift^[n] c := by
  induction n generalizing c with
  | zero => rfl
  | succ n ih => rw [crcShifts, ih, Function.iterate_succ_apply]

/-- R112: the last byte of a list is folded in last. -/
theorem crc16_concat (x : List Byte) (b : Byte) : crc16 (x ++ [b]) = crcStep (crc16 x) b := List.foldl_concat ..

section Register

variable (s : State)

/-- R113. -/
theorem exec_crcInit : exec .crcInit s = .next { s with crcReg := 0xFFFF, reply := .done [] .none } := rfl

/-- R114. -/
theorem exec_crcByte (b : Byte) : exec (.crcByte b) s =
    .next { s with crcReg := crcStep s.crcReg b, reply := .done [] (.u16 (crcStep s.crcReg b)) } := rfl

/-- R115: CRC.CALC answers from its operand alone and keeps crc_reg. -/
theorem givesOnly_crcCalc (buf : List Byte) : givesOnly (.crcCalc buf) s (.u16 (crc16 buf)) := rfl

/-- One CRC.BYTE for each byte folds the list into crc_reg, from any value of it, and changes nothing else (R117 starts it from
0xFFFF). -/
theorem runOps_crcBytes (buf : List Byte) : ∃ rs r, runOps (buf.map .crcByte) s =
    some (rs, { s with crcReg := buf.foldl crcStep s.crcReg, reply := r }) := by
  induction buf generalizing s with
  | nil => exact ⟨[], s.reply, rfl⟩
  | cons b more ih =>
    obtain ⟨rs, r, hmore⟩ := ih { s with crcReg := crcStep s.crcReg b, reply := .done [] (.u16 (crcStep s.crcReg b)) }
    refine ⟨.done [] (.u16 (crcStep s.crcReg b)) :: rs, r, ?_⟩
    rw [List.map_cons, runOps_cons_next _ _ _ _ (exec_crcByte s b), hmore]
    rfl

/-- R117: CRC.INIT and one CRC.BYTE for each byte leave the CRC16 of the list in crc_reg and change nothing else. -/
theorem runOps_crcInit_crcBytes (buf : List Byte) : ∃ rs r, runOps (.crcInit :: buf.map .crcByte) s =
    some (rs, { s with crcReg := crc16 buf, reply := r }) := by
  obtain ⟨rs, r, hbytes⟩ := runOps_crcBytes { s with crcReg := 0xFFFF, reply := .done [] .none } buf
  refine ⟨.done [] .none :: rs, r, ?_⟩
  rw [runOps_cons_next _ _ _ _ (exec_crcInit s), hbytes]
  rfl

end Register

end Sys2Proof.Machine

namespace Sys2Proof.Proofs

open Sys2Proof.Machine

/-- Settles O38: the register after the run (`runOps_crcInit_crcBytes`) is what CRC.CALC answers; the check values are computed. -/
theorem crcRegisterAgrees : Obligations.CrcRegisterAgrees := by
  refine ⟨fun s buf => ?_, rfl, ?_⟩
  · obtain ⟨rs, r, hrun⟩ := runOps_crcInit_crcBytes s buf
    exact ⟨rs, _, hrun, rfl, givesOnly_crcCalc _ buf⟩
  · simp [crc16, crcStep, crcShifts, crcShift]

/-- Settles O36: the eight iterations as an iterate (`crcShifts_eq_iterate`), and the fold of a list's last byte. -/
theorem crcFunction : Obligations.CrcFunction :=
  ⟨fun _ _ => crcShifts_eq_iterate 8 _, rfl, crc16_concat⟩

/-- Settles O37, by the rule of each operation. -/
theorem crcOperations : Obligations.CrcOperations := fun s b buf =>
  ⟨exec_crcInit s, exec_crcByte s b, givesOnly_crcCalc s buf⟩

end Sys2Proof.Proofs

/-! PROOF. The channel-access family: what each operation of the arbiter answers in each phase, the draws that a ready gate grants
on, and the deaf timer along a run of operations (spec/43_channel_access.md R119 to R130). -/

namespace Sys2Proof.Machine

section Arbiter

variable (s : State)

/-! ### Configuration and reports (R119, R120, R124, R125) -/

theorem exec_caSetcfg_zero (v : U32) : exec (.caSetcfg 0 v) s =
    if v.toNat ≤ 0xFF then .next { s with caPersist := v.setWidth 8, reply := .done [] .none }
    else .refused (.valueTooWide v) := rfl

theorem exec_caSetcfg_one (v : U32) : exec (.caSetcfg 1 v) s =
    if v.toNat ≤ 0xFFFF then .next { s with caSlot := v.setWidth 16, reply := .done [] .none }
    else .refused (.valueTooWide v) := rfl

theorem exec_caSetcfg_two (v : U32) :
    exec (.caSetcfg 2 v) s = .next { s with caDeaf := v, reply := .done [] .none } := rfl

theorem exec_caSetcfg_of_gt {sel : Byte} (v : U32) (h : 2 < sel.toNat) :
    exec (.caSetcfg sel v) s = .refused (.badSelector sel) := by
  have hne (k : Byte) (hk : k.toNat ≤ 2) : sel ≠ k := by
    rintro rfl
    omega
  simp only [exec, execCaSetcfg, if_neg (hne 0 (by decide)), if_neg (hne 1 (by decide)), if_neg (hne 2 (by decide))]

theorem exec_caTick : exec .caTick s = .next { tick s with reply := .done [] .none } := rfl

/-- R124: the clock wraps. -/
theorem tick_caNow_toNat : (tick s).caNow.toNat = (s.caNow.toNat + 1) % 2 ^ 32 := BitVec.toNat_add ..

theorem givesOnly_caRxok : givesOnly .caRxok s (.bool s.rxOk) := rfl

/-- R125: no transmission and no deaf period. -/
theorem rxOk_iff : s.rxOk = true ↔ s.caTxActive = false ∧ s.caDeafCnt = 0 := by
  simp [State.rxOk]

/-! ### The gate (R121, R123) -/

variable {s} {r : Byte}

theorem gateOpen_iff : gateOpen r s = true ↔ s.caBusy = false ∧ r.toNat ≤ s.caPersist.toNat := by
  simp [gateOpen, BitVec.le_def]

theorem gateOpen_eq_false_iff : gateOpen r s = false ↔ s.caBusy = true ∨ s.caPersist.toNat < r.toNat := by
  rw [← Bool.not_eq_true, gateOpen_iff, not_and_or, Bool.not_eq_false, Nat.not_le]

theorem exec_caCheck_of_transmitting (htx : s.caTxActive = true) :
    exec (.caCheck r) s = .fault .checkWhileTransmitting := by
  obtain ⟨-, hstuck⟩ | ⟨hidle, -⟩ | ⟨hidle, -⟩ | ⟨hidle, -⟩ := execCaCheck_cases s r
  · exact hstuck
  all_goals simp [htx] at hidle

/-- In the ready phase the gate decides between a grant and a slot wait. -/
theorem exec_caCheck_of_ready (htx : s.caTxActive = false) (hcnt : s.caSlotCnt = 0) : exec (.caCheck r) s =
    if gateOpen r s then .next { s with caTxActive := true, reply := .done [] .grant }
    else .next { s with caSlotCnt := slotLoad s.caSlot, reply := .done [] .wait } := by
  obtain ⟨hactive, -⟩ | ⟨-, hwaiting, -⟩ | ⟨-, -, hgate, hgrant⟩ | ⟨-, -, hgate, hwait⟩ := execCaCheck_cases s r
  · simp [htx] at hactive
  · exact absurd hcnt hwaiting
  · rw [hgrant, if_pos hgate]
  · rw [hwait, hgate, if_neg Bool.false_ne_true]

theorem grantsOn_of_ready (htx : s.caTxActive = false) (hcnt : s.caSlotCnt = 0) : grantsOn s r = gateOpen r s := by
  rw [grantsOn, exec_caCheck_of_ready htx hcnt]
  cases gateOpen r s <;> rfl

theorem exec_caTxdone_of_transmitting (htx : s.caTxActive = true) : exec .caTxdone s = .next
    { s with caTxActive := false, caLastTx := s.caNow, caDeafCnt := s.caDeaf, reply := .done [] .none } := by
  simp [exec, execCaTxdone, htx, finish]

theorem exec_caTxdone_of_not_transmitting (htx : s.caTxActive = false) :
    exec .caTxdone s = .fault .txDoneWithoutGrant := by
  simp [exec, execCaTxdone, htx]

/-- The slot wait loaded by a CA.CHECK, as R121 writes it. -/
theorem slotLoad_eq_ofNat (slot : U16) : slotLoad slot = BitVec.ofNat 32 (slot.toNat * 10) := by
  rw [← slotLoad_toNat, BitVec.ofNat_toNat, BitVec.setWidth_eq]

/-- Of the first `n` numbers, a test that holds exactly below `k` selects `k`. -/
theorem countP_range_of_iff_lt {q : Nat → Bool} {k n : Nat} (hk : k ≤ n) (hq : ∀ m < n, q m = true ↔ m < k) :
    (List.range n).countP q = k := by
  obtain ⟨d, rfl⟩ := Nat.exists_eq_add_of_le hk
  have hbelow : (List.range k).countP q = k := by
    rw [List.countP_eq_length.2 fun m hm => (hq m (by grind)).2 (List.mem_range.1 hm), List.length_range]
  have habove : ((List.range d).map (k + ·)).countP q = 0 := by
    rw [List.countP_eq_zero]
    grind
  rw [List.range_add, List.countP_append, hbelow, habove, Nat.add_zero]

end Arbiter

/-! ### Ticks along a run (R124) -/

section Ticks

variable {i : Instr} {s t u : State} {ops : List Instr} {rs : List Reply}

theorem ticksIn_cons (i : Instr) (more : List Instr) : ticksIn (i :: more) = ticksIn [i] + ticksIn more :=
  List.countP_append (l₁ := [i])

/-- A run starts with an operation that answers a next state. -/
theorem exec_of_runOps_cons {more : List Instr} (h : runOps (i :: more) s = some (rs, u)) :
    ∃ t rest, exec i s = .next t ∧ runOps more t = some (rest, u) := by
  rw [runOps] at h
  split at h
  case h_1 t ht =>
    obtain ⟨⟨rest, v⟩, hmore, hlast⟩ := Option.map_eq_some_iff.1 h
    cases hlast
    exact ⟨t, rest, ht, hmore⟩
  case h_2 => cases h
  case h_3 => cases h

/-- A timer that every operation of a run counts down by its ticks is counted down by the ticks of the run. -/
theorem runOps_countsDown {timer : State → Nat}
    (hstep : ∀ i ∈ ops, ∀ s t, exec i s = .next t → timer t = timer s - ticksIn [i])
    (h : runOps ops s = some (rs, u)) : timer u = timer s - ticksIn ops := by
  induction ops generalizing s rs with
  | nil => cases h; rfl
  | cons i more ih =>
    obtain ⟨t, rest, ht, hmore⟩ := exec_of_runOps_cons h
    have hfirst := hstep i List.mem_cons_self s t ht
    have hrest := ih (fun j hj => hstep j (List.mem_cons_of_mem i hj)) hmore
    rw [hrest, hfirst, ticksIn_cons i more, Nat.sub_sub]

/-- Only CA.TXDONE and BLK.RESET load the deaf timer: every other operation counts it down by its ticks (R34, R124). -/
theorem caDeafCnt_of_exec (h : exec i s = .next t) (htxdone : i ≠ .caTxdone) (hreset : i ≠ .blkReset) :
    t.caDeafCnt.toNat = s.caDeafCnt.toNat - ticksIn [i] := by
  by_cases htick : i = .caTick
  · subst htick
    cases h
    exact countDown_toNat s.caDeafCnt
  · have hzero : ticksIn [i] = 0 := by simp [ticksIn, htick]
    obtain ⟨-, -, -, -, -, -, hdeaf, -⟩ := Proofs.arbiterWriters i s t h hreset
    have hkept : t.caDeafCnt = s.caDeafCnt := not_not.1 fun hne => (hdeaf hne).elim htick htxdone
    rw [hzero, hkept, Nat.sub_zero]

/-- R123: CA.TXDONE starts the deaf period that ca_deaf asks for. -/
theorem caDeafCnt_of_exec_caTxdone (h : exec .caTxdone s = .next t) : t.caDeafCnt = s.caDeaf := by
  cases htx : s.caTxActive with
  | false =>
    rw [exec_caTxdone_of_not_transmitting htx] at h
    cases h
  | true =>
    rw [exec_caTxdone_of_transmitting htx] at h
    cases h
    rfl

end Ticks

end Sys2Proof.Machine

namespace Sys2Proof.Proofs

open Sys2Proof.Machine

/-- Settles O39, by the answer of each selector. -/
theorem setConfiguration : Obligations.SetConfiguration := by
  intro s v
  rw [exec_caSetcfg_zero, exec_caSetcfg_one]
  exact ⟨fun h => if_pos h, fun h => if_pos h, exec_caSetcfg_two s v, fun h => if_neg (Nat.not_le.2 h),
    fun h => if_neg (Nat.not_le.2 h), fun _ => exec_caSetcfg_of_gt s v⟩

/-- Settles O41, phase by phase: transmitting, waiting, and ready with the gate open or shut. -/
theorem gateCheck : Obligations.GateCheck := by
  intro s r
  refine ⟨exec_caCheck_of_transmitting, exec_caCheck_of_waiting r, fun htx hcnt hbusy hr => ?_, fun htx hcnt hshut => ?_⟩
  · rw [exec_caCheck_of_ready htx hcnt, if_pos (gateOpen_iff.2 ⟨hbusy, hr⟩)]
  · rw [exec_caCheck_of_ready htx hcnt, gateOpen_eq_false_iff.2 hshut, if_neg Bool.false_ne_true, slotLoad_eq_ofNat]

/-- Settles O43: the clock wraps (`tick_caNow_toNat`) and the timers saturate (`countDown_toNat`). -/
theorem tickAdvancesTheTimers : Obligations.TickAdvancesTheTimers := fun s =>
  ⟨_, exec_caTick s, rfl, tick_caNow_toNat s, countDown_toNat s.caSlotCnt, countDown_toNat s.caDeafCnt⟩

/-- Settles O45: a ready gate with the channel free grants exactly on the draws up to ca_persist, all of them below 256. -/
theorem gateBound : Obligations.GateBound := by
  intro s htx hcnt hbusy
  have hgrants (r : Byte) : grantsOn s r = true ↔ r.toNat ≤ s.caPersist.toNat := by
    rw [grantsOn_of_ready htx hcnt, gateOpen_iff]
    exact and_iff_right hbusy
  refine ⟨hgrants, countP_range_of_iff_lt s.caPersist.isLt fun n hn => ?_⟩
  rw [hgrants, BitVec.toNat_ofNat, Nat.mod_eq_of_lt hn, Nat.lt_succ_iff]

/-- Settles O46: only a grant sets ca_tx_active, and only CA.TXDONE and BLK.RESET clear it. -/
theorem halfDuplex : Obligations.HalfDuplex := by
  refine ⟨fun i s t h hbefore hafter => ?_, fun i s t h hbefore hafter => ?_, fun s htx => ?_⟩
  · cases effect_of_exec h with
    | grant r _ _ hgate => exact ⟨(gateOpen_iff.1 hgate).1, r, rfl⟩
    | _ => simp [hbefore] at hafter
  · cases effect_of_exec h with
    | txdone => exact .inl rfl
    | reset => exact .inr rfl
    | _ => simp [hbefore] at hafter
  · simp [State.rxOk, htx]

/-- Settles O47: CA.TXDONE loads the deaf timer, and the run counts it down by its ticks (`runOps_countsDown`). -/
theorem deafPeriodIsExact : Obligations.DeafPeriodIsExact := by
  intro s t h ops rs u htxdone hreset hrun
  have hcount : u.caDeafCnt.toNat = s.caDeaf.toNat - ticksIn ops := by
    rw [← caDeafCnt_of_exec_caTxdone h]
    exact runOps_countsDown (timer := fun v => v.caDeafCnt.toNat) (fun i hi s t ht => caDeafCnt_of_exec ht
      (ne_of_mem_of_not_mem hi htxdone) (ne_of_mem_of_not_mem hi hreset)) hrun
  rw [rxOk_iff, ← BitVec.toNat_inj, hcount]
  exact and_congr_right' Nat.sub_eq_zero_iff_le

/-- Settles O40: each report is one write of the model, by computation. -/
theorem busyReport : Obligations.BusyReport := fun _ => ⟨rfl, rfl⟩

/-- Settles O42, by the phase. -/
theorem transmissionDone : Obligations.TransmissionDone := fun _ =>
  ⟨exec_caTxdone_of_transmitting, exec_caTxdone_of_not_transmitting⟩

/-- Settles O44, by what rx_ok is (`rxOk_iff`). -/
theorem receiveGate : Obligations.ReceiveGate := by
  intro s
  have hrx : s.rxOk = decide (s.caTxActive = false ∧ s.caDeafCnt = 0) := by
    rw [Bool.eq_iff_iff, decide_eq_true_iff, rxOk_iff]
  exact hrx ▸ givesOnly_caRxok s

end Sys2Proof.Proofs

/-! PROOF. The block family: what BLK.RDREG answers to a number, and CA_STATUS as a sum of its bits (spec/44_block.md R131). -/

namespace Sys2Proof.Machine

section Registers

variable {s : State} {n : Byte}

theorem givesOnly_blkRdreg {v : U32} (h : readReg n s = some v) : givesOnly (.blkRdreg n) s (.u32 v) := by
  simp only [givesOnly, exec, execBlkRdreg, h, finish]

theorem readReg_eq_none (h : n ∉ listedRegisters) : readReg n s = none := by
  rw [← Option.not_isSome_iff_eq_none, readReg_isSome, List.contains_iff_mem]
  exact h

theorem exec_blkRdreg_of_not_listed (h : n ∉ listedRegisters) :
    exec (.blkRdreg n) s = .refused (.reservedRegister n) := by
  simp only [exec, execBlkRdreg, readReg_eq_none h]

/-- R131: the three bits of CA_STATUS do not overlap, so their disjunction is their sum. -/
theorem caStatus_eq_sum : s.caStatus = (if s.caTxActive = false ∧ s.caDeafCnt = 0 then 4 else 0) +
    (if s.caTxActive then 2 else 0) + (if s.caBusy then 1 else 0) := by
  simp only [State.caStatus, ← rxOk_iff]
  cases s.rxOk <;> cases s.caTxActive <;> cases s.caBusy <;> rfl

end Registers

end Sys2Proof.Machine

namespace Sys2Proof.Proofs

open Sys2Proof.Machine

/-- Settles O9: a listed number answers what `readReg` reads there, kf_len within its 32 bits and CA_STATUS by its bits, and any
other number is refused. -/
theorem readRegister : Obligations.ReadRegister := by
  intro s
  have hlen (h : s.kfLen < 2 ^ 32) : (BitVec.ofNat 32 s.kfLen).toNat = s.kfLen :=
    (BitVec.toNat_ofNat ..).trans (Nat.mod_eq_of_lt h)
  have hstatus : readReg 0x23 s = some _ := congrArg some caStatus_eq_sum
  exact ⟨givesOnly_blkRdreg rfl, ⟨_, givesOnly_blkRdreg rfl, hlen⟩, givesOnly_blkRdreg rfl, givesOnly_blkRdreg rfl,
    givesOnly_blkRdreg rfl, givesOnly_blkRdreg rfl, givesOnly_blkRdreg rfl, givesOnly_blkRdreg rfl, givesOnly_blkRdreg rfl,
    givesOnly_blkRdreg rfl, givesOnly_blkRdreg rfl, givesOnly_blkRdreg rfl, givesOnly_blkRdreg hstatus,
    givesOnly_blkRdreg rfl, givesOnly_blkRdreg rfl, givesOnly_blkRdreg rfl, givesOnly_blkRdreg rfl, givesOnly_blkRdreg rfl,
    fun _ => exec_blkRdreg_of_not_listed⟩

end Sys2Proof.Proofs

/-! PROOF. The exceptions family: every way that an operation stops the block instead of answering a next state, and what the
framer does with the bytes left of an aborted frame and with the frame behind them (spec/60_exceptions.md R134, R136). -/

namespace Sys2Proof.Machine

/-! ### Stuck and refused operations (R134) -/

section Stopping

variable {s : State} {i : Instr} {o : Out}

/-- An operation of `s` that stops, with its fault or its refusal: the answers of `exec` that are no next state. -/
inductive Stops (s : State) : Instr → Out → Prop
  | checkStuck (r : Byte) (htx : s.caTxActive = true) : Stops s (.caCheck r) (.fault .checkWhileTransmitting)
  | txdoneStuck (htx : s.caTxActive = false) : Stops s .caTxdone (.fault .txDoneWithoutGrant)
  | unlistedRegister {n : Byte} (hn : n ∉ listedRegisters) : Stops s (.blkRdreg n) (.refused (.reservedRegister n))
  | badSelector {sel : Byte} (v : U32) (hsel : 2 < sel.toNat) : Stops s (.caSetcfg sel v) (.refused (.badSelector sel))
  | widePersist {v : U32} (hv : 0xFF < v.toNat) : Stops s (.caSetcfg 0 v) (.refused (.valueTooWide v))
  | wideSlot {v : U32} (hv : 0xFFFF < v.toNat) : Stops s (.caSetcfg 1 v) (.refused (.valueTooWide v))
  | manyDigis (dest src : Addr) {digis : List Addr} (p : List Byte) (hk : 8 < digis.length) :
      Stops s (.axEncodeui dest src digis p) (.refused (.tooManyDigis digis.length))
  | badField7 {f : List Byte} (hf : f.length ≠ 7) : Stops s (.axUnpackaddr f) (.refused (.badField7 f.length))

theorem exec_of_stops (h : Stops s i o) : exec i s = o := by
  cases h with
  | checkStuck _ htx => exact exec_caCheck_of_transmitting htx
  | txdoneStuck htx => exact exec_caTxdone_of_not_transmitting htx
  | unlistedRegister hn => exact exec_blkRdreg_of_not_listed hn
  | badSelector v hsel => exact exec_caSetcfg_of_gt s v hsel
  | widePersist hv => exact (exec_caSetcfg_zero s _).trans (if_neg (Nat.not_le.2 hv))
  | wideSlot hv => exact (exec_caSetcfg_one s _).trans (if_neg (Nat.not_le.2 hv))
  | manyDigis _ _ _ hk => exact if_neg (Nat.not_le.2 hk)
  | badField7 hf => exact if_neg hf

/-- A configuration write answers a next state or is refused for its selector or for its value (R119). -/
theorem caSetcfg_next_or_stops (s : State) (sel : Byte) (v : U32) :
    (∃ t, exec (.caSetcfg sel v) s = .next t) ∨ ∃ o, Stops s (.caSetcfg sel v) o := by
  have hsel : sel = 0 ∨ sel = 1 ∨ sel = 2 ∨ 2 < sel.toNat := by bv_omega
  obtain rfl | rfl | rfl | hgt := hsel
  · by_cases hv : v.toNat ≤ 0xFF
    · exact .inl ⟨_, (exec_caSetcfg_zero s v).trans (if_pos hv)⟩
    · exact .inr ⟨_, .widePersist (Nat.not_le.1 hv)⟩
  · by_cases hv : v.toNat ≤ 0xFFFF
    · exact .inl ⟨_, (exec_caSetcfg_one s v).trans (if_pos hv)⟩
    · exact .inr ⟨_, .wideSlot (Nat.not_le.1 hv)⟩
  · exact .inl ⟨_, exec_caSetcfg_two s v⟩
  · exact .inr ⟨_, .badSelector v hgt⟩

/-- Every operation answers a next state or stops: only the operations of `Stops` have a guard. -/
theorem next_or_stops (i : Instr) (s : State) : (∃ t, exec i s = .next t) ∨ ∃ o, Stops s i o := by
  cases i with
  | blkRdreg n =>
    by_cases hn : n ∈ listedRegisters
    · have hsome : (readReg n s).isSome = true := by rwa [readReg_isSome, List.contains_iff_mem]
      obtain ⟨v, hv⟩ := Option.isSome_iff_exists.1 hsome
      exact .inl ⟨_, givesOnly_blkRdreg hv⟩
    · exact .inr ⟨_, .unlistedRegister hn⟩
  | axUnpackaddr f =>
    by_cases hf : f.length = 7
    · exact .inl ⟨_, givesOnly_axUnpackaddr hf⟩
    · exact .inr ⟨_, .badField7 hf⟩
  | axParse buf =>
    obtain ⟨_, _, -, hnext⟩ := exec_axParse s buf s.reply
    exact .inl ⟨_, hnext⟩
  | axEncodeui dest src digis p =>
    by_cases hk : digis.length ≤ 8
    · exact .inl ⟨_, givesOnly_axEncodeui p hk⟩
    · exact .inr ⟨_, .manyDigis dest src p (Nat.not_le.1 hk)⟩
  | caSetcfg sel v => exact caSetcfg_next_or_stops s sel v
  | caCheck r =>
    obtain ⟨htx, -⟩ | ⟨-, -, hnext⟩ | ⟨-, -, -, hnext⟩ | ⟨-, -, -, hnext⟩ := execCaCheck_cases s r
    · exact .inr ⟨_, .checkStuck r htx⟩
    all_goals exact .inl ⟨_, hnext⟩
  | caTxdone =>
    cases htx : s.caTxActive with
    | false => exact .inr ⟨_, .txdoneStuck htx⟩
    | true => exact .inl ⟨_, exec_caTxdone_of_transmitting htx⟩
  | _ => exact .inl ⟨_, rfl⟩

/-- The answers that are no next state are those of the operations that stop. -/
theorem exec_eq_iff_stops (ho : ∀ t, o ≠ .next t) : exec i s = o ↔ Stops s i o := by
  refine ⟨fun h => ?_, exec_of_stops⟩
  obtain ⟨t, ht⟩ | ⟨o', hstops⟩ := next_or_stops i s
  · exact absurd (h.symm.trans ht) (ho t)
  · rwa [← h, exec_of_stops hstops]

/-- R13, R121: an operation is held exactly when it is a CA.CHECK during a slot wait. -/
theorem exec_held_iff : (∃ t, exec i s = .next t ∧ t.reply = .held) ↔
    (∃ r, i = .caCheck r) ∧ s.caTxActive = false ∧ s.caSlotCnt ≠ 0 := by
  constructor
  · rintro ⟨t, h, hheld⟩
    cases effect_of_exec h with
    | held r htx hcnt => exact ⟨⟨r, rfl⟩, htx, hcnt⟩
    | _ => cases hheld
  · rintro ⟨⟨r, rfl⟩, htx, hcnt⟩
    exact ⟨_, exec_caCheck_of_waiting r htx hcnt, rfl⟩

end Stopping

/-! ### The bytes after a framing error (R136) -/

theorem getLsbD_one_setExit (st : Byte) : (setExit st).getLsbD 1 = st.getLsbD 1 := by
  simp [setExit]

/-- From WaitFend: the bytes left of an aborted frame raise only EXIT, its closing FEND opens a frame, and a frame with its own
opening FEND completes from there. -/
theorem rxBytes_left_wireFrame (p : Params) {s : State} {left : List Byte} (c : Byte) {q : List Byte}
    (hs : s.kfState = .waitFend) (hleft : fend ∉ left) (hl : q.length + 1 ≤ p.rxCap) :
    ∃ u, rxBytes p (left ++ [fend] ++ wireFrame c q) s =
        (u, List.replicate (left.count escSentinel) .exit ++ completeEvents p c q) ∧
      u.kfState = .waitFend ∧ u.errFlag = s.errFlag := by
  have hexits := rxBytes_waitFend p s left hs hleft
  generalize hmid : (rxBytes p left s).1 = mid
  have hwait : mid.kfState = .waitFend := by rw [← hmid, hexits]; exact hs
  have herr : mid.errFlag = s.errFlag := by
    rw [← hmid, hexits, State.errFlag, State.errFlag]
    dsimp only
    split_ifs
    · exact getLsbD_one_setExit s.kfStat
    · rfl
  have hopen : rxByte p fend mid = (openFrame (countRx mid), []) := rxByte_waitFend p mid fend hwait
  obtain ⟨buf, hframe, -⟩ := rxBytes_wireFrame p (openFrame (countRx mid)) c q (.inr ⟨rfl, rfl⟩) hl
  refine ⟨(rxBytes p (wireFrame c q) (openFrame (countRx mid))).1, ?_, ?_, ?_⟩
  · rw [List.append_assoc, rxBytes_append, hmid, List.singleton_append, rxBytes_cons, hopen, hexits, hframe]
    rfl
  · rw [hframe]
  · rw [hframe, ← herr]
    exact getLsbD_one_completeStat ..

end Sys2Proof.Machine

namespace Sys2Proof.Proofs

open Sys2Proof.Machine

/-- Settles O56: what is stuck or refused is what stops (`Stops`), and the held operation is the CA.CHECK of a slot wait. -/
theorem whenAnOperationDoesNotComplete : Obligations.WhenAnOperationDoesNotComplete := by
  refine fun i s => ⟨fun f => ?_, ?_, exec_held_iff⟩
  · rw [exec_eq_iff_stops (o := .fault f) nofun]
    constructor
    · intro h
      cases h with
      | checkStuck r htx => exact .inl ⟨⟨r, rfl⟩, htx, rfl⟩
      | txdoneStuck htx => exact .inr ⟨rfl, htx, rfl⟩
    · rintro (⟨⟨r, rfl⟩, htx, rfl⟩ | ⟨rfl, htx, rfl⟩)
      · exact .checkStuck r htx
      · exact .txdoneStuck htx
  · constructor
    · rintro ⟨r, h⟩
      rw [exec_eq_iff_stops (o := .refused r) nofun] at h
      cases h with
      | unlistedRegister hn => exact .inl ⟨_, rfl, hn⟩
      | badSelector v hsel => exact .inr (.inl ⟨_, v, rfl, .inl hsel⟩)
      | widePersist hv => exact .inr (.inl ⟨0, _, rfl, .inr (.inl ⟨rfl, hv⟩)⟩)
      | wideSlot hv => exact .inr (.inl ⟨1, _, rfl, .inr (.inr ⟨rfl, hv⟩)⟩)
      | manyDigis dest src p hk => exact .inr (.inr (.inl ⟨dest, src, _, p, rfl, hk⟩))
      | badField7 hf => exact .inr (.inr (.inr ⟨_, rfl, hf⟩))
    · rintro (⟨n, rfl, hn⟩ | ⟨sel, v, rfl, hsel | ⟨rfl, hv⟩ | ⟨rfl, hv⟩⟩ | ⟨dest, src, digis, p, rfl, hk⟩ | ⟨f, rfl, hf⟩)
      · exact ⟨_, exec_of_stops (.unlistedRegister hn)⟩
      · exact ⟨_, exec_of_stops (.badSelector v hsel)⟩
      · exact ⟨_, exec_of_stops (.widePersist hv)⟩
      · exact ⟨_, exec_of_stops (.wideSlot hv)⟩
      · exact ⟨_, exec_of_stops (.manyDigis dest src p hk)⟩
      · exact ⟨_, exec_of_stops (.badField7 hf)⟩

/-- Settles O21: one KF.RXBYTE per byte is the bytes received together, and a frame of another command byte than Return has one
event. -/
theorem nextFrameSurvivesAnError : Obligations.NextFrameSurvivesAnError := by
  intro s left c p hs hleft hl hc
  obtain ⟨u, hrx, hwait, herr⟩ := rxBytes_left_wireFrame Config.params c hs hleft hl
  obtain ⟨rs, r, hrun, hevents⟩ := runOps_feedOps s (left ++ [fend] ++ wireFrame c p)
  rw [hrx] at hrun hevents
  rw [completeEvents_of_ne _ hc] at hevents
  exact ⟨rs, _, hrun, hevents, hwait, herr⟩

end Sys2Proof.Proofs

/-! PROOF. The reset and hazards family: the state after reset, the slot timer along a run of operations and along the CA.CSMA
loop, what the host contract excludes, and the operation sequences of the host (spec/70_reset_and_hazards.md R150 to R163). -/

namespace Sys2Proof.Machine

/-! ### The slot wait along a run (R119, R121, R157) -/

section SlotWait

variable {i : Instr} {s t u : State} {r : Byte} {ops : List Instr} {rs : List Reply} {m : Nat}

/-- A property that every operation of a run keeps holds at its end. -/
theorem runOps_keeps {P : State → Prop} (hstep : ∀ i ∈ ops, ∀ s t, exec i s = .next t → P s → P t)
    (h : runOps ops s = some (rs, u)) (hs : P s) : P u := by
  induction ops generalizing s rs with
  | nil => cases h; exact hs
  | cons i more ih =>
    obtain ⟨t, rest, ht, hmore⟩ := exec_of_runOps_cons h
    exact ih (fun j hj => hstep j (List.mem_cons_of_mem i hj)) hmore (hstep i List.mem_cons_self s t ht hs)

/-- R121: a WAIT leaves no transmission and loads the slot timer. -/
theorem slotLoad_of_wait (h : exec (.caCheck r) s = .next t) (hwait : t.reply = .done [] .wait) :
    t.caTxActive = false ∧ t.caSlotCnt = slotLoad s.caSlot := by
  obtain ⟨-, hc⟩ | ⟨-, -, hc⟩ | ⟨-, -, -, hc⟩ | ⟨htx, -, -, hc⟩ := execCaCheck_cases s r <;> rw [hc] at h <;> cases h
  · cases hwait
  · cases hwait
  · exact ⟨htx, rfl⟩

/-- Only CA.CHECK and BLK.RESET load the slot timer: every other operation counts it down by its ticks (R33, R124). -/
theorem caSlotCnt_of_exec (h : exec i s = .next t) (hcheck : ∀ r, i ≠ .caCheck r) (hreset : i ≠ .blkReset) :
    t.caSlotCnt.toNat = s.caSlotCnt.toNat - ticksIn [i] := by
  by_cases htick : i = .caTick
  · subst htick
    cases h
    exact countDown_toNat s.caSlotCnt
  · have hzero : ticksIn [i] = 0 := by simp [ticksIn, htick]
    obtain ⟨-, -, -, -, -, hslot, -⟩ := Proofs.arbiterWriters i s t h hreset
    have hkept : t.caSlotCnt = s.caSlotCnt := not_not.1 fun hne =>
      (hslot hne).elim htick fun ⟨r, hr⟩ => hcheck r hr
    rw [hzero, hkept, Nat.sub_zero]

/-- R121: a CA.CHECK shortens no slot wait: it loads the timer only at 0. -/
theorem caSlotCnt_le_of_caCheck (h : exec (.caCheck r) s = .next t) : s.caSlotCnt.toNat ≤ t.caSlotCnt.toNat := by
  obtain ⟨-, hc⟩ | ⟨-, -, hc⟩ | ⟨-, -, -, hc⟩ | ⟨-, hcnt, -, hc⟩ := execCaCheck_cases s r <;> rw [hc] at h <;> cases h
  · exact le_rfl
  · exact le_rfl
  · rw [hcnt]
    exact Nat.zero_le _

/-- Without a BLK.RESET a slot wait ends by its ticks alone. -/
theorem caSlotCnt_le_of_exec (h : exec i s = .next t) (hreset : i ≠ .blkReset) :
    s.caSlotCnt.toNat ≤ t.caSlotCnt.toNat + ticksIn [i] := by
  by_cases hcheck : ∃ r, i = .caCheck r
  · obtain ⟨r, rfl⟩ := hcheck
    exact Nat.le_add_right_of_le (caSlotCnt_le_of_caCheck h)
  · have hcount := caSlotCnt_of_exec h (fun r hr => hcheck ⟨r, hr⟩) hreset
    omega

theorem caSlotCnt_le_of_runOps (h : runOps ops s = some (rs, u)) (hreset : .blkReset ∉ ops) :
    s.caSlotCnt.toNat ≤ u.caSlotCnt.toNat + ticksIn ops := by
  induction ops generalizing s rs with
  | nil => cases h; exact le_rfl
  | cons i more ih =>
    obtain ⟨t, rest, ht, hmore⟩ := exec_of_runOps_cons h
    rw [List.mem_cons, not_or] at hreset
    have hfirst := caSlotCnt_le_of_exec ht (Ne.symm hreset.1)
    have hrest := ih hmore hreset.2
    rw [ticksIn_cons]
    omega

/-- A slot wait that is over at the end of a run has taken its ticks. -/
theorem le_ticksIn_of_runOps (h : runOps ops s = some (rs, u)) (hreset : .blkReset ∉ ops) (hcnt : u.caSlotCnt = 0) :
    s.caSlotCnt.toNat ≤ ticksIn ops := by
  simpa [hcnt] using caSlotCnt_le_of_runOps h hreset

/-- R119: the slot time that a completed write leaves is the one written, since a wider one is refused. -/
theorem caSlot_of_exec_caSetcfg {v : U32} (h : exec (.caSetcfg 1 v) s = .next t) : t.caSlot.toNat = v.toNat := by
  rw [exec_caSetcfg_one] at h
  split at h
  case isTrue hv =>
    cases h
    rw [BitVec.toNat_setWidth, Nat.mod_eq_of_lt (by omega)]
  case isFalse => cases h

/-- Operations that write no slot time below `m`: no BLK.RESET, and no smaller one by CA.SETCFG. -/
def keepsSlotTime (m : Nat) (ops : List Instr) : Prop := .blkReset ∉ ops ∧ ∀ v, .caSetcfg 1 v ∈ ops → m ≤ v.toNat

theorem le_caSlot_of_runOps (h : runOps ops s = some (rs, u)) (hops : keepsSlotTime m ops) (hs : m ≤ s.caSlot.toNat) :
    m ≤ u.caSlot.toNat := by
  refine runOps_keeps (P := fun v => m ≤ v.caSlot.toNat) (fun i hi s t ht hm => ?_) h hs
  obtain ⟨-, hslot, -⟩ := Proofs.arbiterWriters i s t ht (ne_of_mem_of_not_mem hi hops.1)
  by_cases hkept : t.caSlot = s.caSlot
  · rwa [hkept]
  · obtain ⟨v, rfl⟩ := hslot hkept
    rw [caSlot_of_exec_caSetcfg ht]
    exact hops.2 v hi

end SlotWait

/-! ### The CA.CSMA loop (R126) -/

/-- A run of the loop, round by round: `csma` as a relation with named cases, one per answer of the round's check. -/
inductive CsmaRuns : List (List Instr × Byte) → State → CsmaRun → Prop
  | ended (s : State) : CsmaRuns [] s ⟨false, 0, 0, s⟩
  | granted {s t : State} {ops : List Instr} {rs : List Reply} {r : Byte} (more : List (List Instr × Byte))
      (hrun : runOps ops s = some (rs, t)) (hcnt : t.caSlotCnt = 0) (hgate : gateOpen r t = true) :
      CsmaRuns ((ops, r) :: more) s
        ⟨true, 0, ticksIn ops, { t with caTxActive := true, reply := .done [] .grant }⟩
  | held {s t : State} {ops : List Instr} {rs : List Reply} {r : Byte} {more : List (List Instr × Byte)} {k : CsmaRun}
      (hrun : runOps ops s = some (rs, t)) (hmore : CsmaRuns more { t with reply := .held } k) :
      CsmaRuns ((ops, r) :: more) s { k with ticks := k.ticks + ticksIn ops }
  | waited {s t : State} {ops : List Instr} {rs : List Reply} {r : Byte} {more : List (List Instr × Byte)} {k : CsmaRun}
      (hrun : runOps ops s = some (rs, t)) (hcnt : t.caSlotCnt = 0)
      (hmore : CsmaRuns more { t with caSlotCnt := slotLoad t.caSlot, reply := .done [] .wait } k) :
      CsmaRuns ((ops, r) :: more) s { k with waits := k.waits + 1, ticks := k.ticks + ticksIn ops }

section Csma

variable {s : State} {rounds : List (List Instr × Byte)} {k : CsmaRun}

theorem csmaRuns_of_csma (h : csma rounds s = some k) : CsmaRuns rounds s k := by
  induction rounds generalizing s k with
  | nil => cases h; exact .ended s
  | cons round more ih =>
    obtain ⟨ops, r⟩ := round
    rw [csma] at h
    split at h
    case h_1 => cases h
    case h_2 rs t hrun =>
      obtain ⟨-, hc⟩ | ⟨-, -, hc⟩ | ⟨-, hcnt, hgate, hc⟩ | ⟨-, hcnt, -, hc⟩ := execCaCheck_cases t r <;>
        simp only [hc, reduceCtorEq, if_true, if_false, Reply.done.injEq, and_false, Option.map_eq_some_iff] at h
      · obtain ⟨k, hk, rfl⟩ := h
        exact .held hrun (ih hk)
      · cases h
        exact .granted more hrun hcnt hgate
      · obtain ⟨k, hk, rfl⟩ := h
        exact .waited hrun hcnt (ih hk)

/-- A granted run ends in a transmission, on a free channel (R121, R128). -/
theorem state_of_csmaRuns (h : CsmaRuns rounds s k) (hgranted : k.granted = true) :
    k.state.caTxActive = true ∧ k.state.caBusy = false := by
  induction h with
  | ended => cases hgranted
  | granted _ _ _ hgate => exact ⟨rfl, (gateOpen_iff.1 hgate).1⟩
  | held _ _ ih => exact ih hgranted
  | waited _ _ _ ih => exact ih hgranted

/-- A granted run has waited for what was left of the slot wait at its start, and for a slot time after each WAIT. -/
theorem ticks_of_csmaRuns {m : Nat} (h : CsmaRuns rounds s k) (hgranted : k.granted = true) (hm : m ≤ s.caSlot.toNat)
    (hrounds : ∀ round ∈ rounds, keepsSlotTime m round.1) : k.waits * (m * 10) + s.caSlotCnt.toNat ≤ k.ticks := by
  induction h with
  | ended => cases hgranted
  | granted _ hrun hcnt _ =>
    obtain ⟨hops, -⟩ := List.forall_mem_cons.1 hrounds
    have hwaited := le_ticksIn_of_runOps hrun hops.1 hcnt
    rwa [Nat.zero_mul, Nat.zero_add]
  | held hrun _ ih =>
    obtain ⟨hops, hmore⟩ := List.forall_mem_cons.1 hrounds
    have hwaited := caSlotCnt_le_of_runOps hrun hops.1
    have hslot := le_caSlot_of_runOps hrun hops hm
    have hrest := ih hgranted hslot hmore
    dsimp only at hrest ⊢
    omega
  | waited hrun hcnt _ ih =>
    obtain ⟨hops, hmore⟩ := List.forall_mem_cons.1 hrounds
    have hslot := le_caSlot_of_runOps hrun hops hm
    have hwaited := le_ticksIn_of_runOps hrun hops.1 hcnt
    have hrest := ih hgranted hslot hmore
    simp only [slotLoad_toNat, Nat.succ_mul] at hrest ⊢
    omega

end Csma

/-! ### The host contract (R134, R154) -/

section Contract

variable {i : Instr} {s t : State} {o : Out}

theorem wf_blkRdreg_iff {n : Byte} : (Instr.blkRdreg n).wf = true ↔ n ∈ listedRegisters := by
  simp [Instr.wf, Instr.encodable]

theorem wf_axUnpackaddr_iff {f : List Byte} : (Instr.axUnpackaddr f).wf = true ↔ f.length = 7 := by
  simp [Instr.wf, Instr.encodable]

theorem wf_axEncodeui_iff {dest src : Addr} {digis : List Addr} {p : List Byte} :
    (Instr.axEncodeui dest src digis p).wf = true ↔ digis.length ≤ 8 := by
  simp [Instr.wf, Instr.encodable]

theorem wf_caSetcfg_iff {sel : Byte} {v : U32} : (Instr.caSetcfg sel v).wf = true ↔
    (sel = 0 ∧ v.toNat ≤ 0xFF) ∨ (sel = 1 ∧ v.toNat ≤ 0xFFFF) ∨ sel = 2 := by
  simp [Instr.wf, Instr.encodable, or_assoc]

/-- A well-formed operation is not refused, and one within the host contract is not stuck. -/
theorem not_stops_of_wf (hwf : i.wf = true) (hc : hostContract i s) : ¬Stops s i o := by
  obtain ⟨hcheck, htxdone⟩ := hc
  intro h
  cases h with
  | checkStuck r htx => simp [hcheck r rfl] at htx
  | txdoneStuck htx => simp [htxdone rfl] at htx
  | unlistedRegister hn => exact hn (wf_blkRdreg_iff.1 hwf)
  | badSelector _ hsel =>
    obtain ⟨rfl, -⟩ | ⟨rfl, -⟩ | rfl := wf_caSetcfg_iff.1 hwf <;> exact absurd hsel (by decide)
  | widePersist hv =>
    obtain ⟨-, hfits⟩ | ⟨hsel, -⟩ | hsel := wf_caSetcfg_iff.1 hwf
    · exact Nat.not_le.2 hv hfits
    all_goals exact absurd hsel (by decide)
  | wideSlot hv =>
    obtain ⟨hsel, -⟩ | ⟨-, hfits⟩ | hsel := wf_caSetcfg_iff.1 hwf
    · exact absurd hsel (by decide)
    · exact Nat.not_le.2 hv hfits
    · exact absurd hsel (by decide)
  | manyDigis _ _ _ hk => exact Nat.not_le.2 hk (wf_axEncodeui_iff.1 hwf)
  | badField7 hf => exact hf (wf_axUnpackaddr_iff.1 hwf)

/-- An operation that answers a next state has completed there or is held (R13). -/
theorem reply_of_exec (h : exec i s = .next t) : (∃ events r, t.reply = .done events r) ∨ t.reply = .held := by
  cases effect_of_exec h with
  | held => exact .inr rfl
  | _ => exact .inl ⟨_, _, rfl⟩

end Contract

/-! ### The host's sequences (R152, R155) -/

section Sequences

variable (s : State)

theorem exec_caSetcfg_persistence (v : Byte) : exec (.caSetcfg 0 (v.setWidth 32)) s =
    .next { s with caPersist := v, reply := .done [] .none } := by
  have hfits : (v.setWidth 32).toNat ≤ 0xFF := by bv_omega
  rw [exec_caSetcfg_zero, if_pos hfits, BitVec.setWidth_setWidth_of_le _ (by decide), BitVec.setWidth_eq]

theorem exec_caSetcfg_slotTime (v : U16) : exec (.caSetcfg 1 (v.setWidth 32)) s =
    .next { s with caSlot := v, reply := .done [] .none } := by
  have hfits : (v.setWidth 32).toNat ≤ 0xFFFF := by bv_omega
  rw [exec_caSetcfg_one, if_pos hfits, BitVec.setWidth_setWidth_of_le _ (by decide), BitVec.setWidth_eq]

/-- R152: the boot operations leave the reset state with the host's two parameters. -/
theorem runOps_bootOps (persistence : Byte) (slot : U16) : runOps (bootOps persistence slot) s =
    some (List.replicate 4 (.done [] .none), { resetBlock Config.params s with
      caPersist := persistence, caSlot := slot, reply := .done [] .none }) := by
  rw [bootOps, runOps_cons_next _ _ _ _ rfl, runOps_cons_next _ _ _ _ (exec_caSetcfg_persistence _ _),
    runOps_cons_next _ _ _ _ (exec_caSetcfg_slotTime _ _), runOps_cons_next _ _ _ _ rfl]
  rfl

/-- R153: the framer is idled, EXIT acknowledged. -/
theorem runOps_leaveKissOps : runOps leaveKissOps s = some ([.done [] .none, .done [] .none],
    { idleFramer s with kfStat := clearStat 0x01 s.kfStat, reply := .done [] .none }) :=
  rfl

variable {s} (packet : List Byte) (c : Byte) (p : List Byte)

/-- R155 (2): the receive duty asks CA.RXOK first, whose answer is its reply. -/
theorem receivePacket_eq : receivePacket packet c p s =
    if s.rxOk then parsePacket packet c p { s with reply := .done [] (.bool true) }
    else some (.suppressed, { s with reply := .done [] (.bool false) }) := by
  have hrxok : exec .caRxok s = _ := givesOnly_caRxok s
  rw [receivePacket, hrxok]
  cases s.rxOk <;> rfl

/-- R155 (3), (4): what becomes of a packet follows from the answer of AX.PARSE. -/
theorem parsePacket_eq {t u : State} {f : ParsedFrame} (h : exec (.axParse packet) t = .next u)
    (hreply : u.reply = .done [] (.parsed f)) : parsePacket packet c p t =
    if f.valid then forwardPacket f c p u else some (.invalid f.reason, u) := by
  simp only [parsePacket, h, hreply]

end Sequences

end Sys2Proof.Machine

namespace Sys2Proof.Proofs

open Sys2Proof.Machine

/-- Settles O48: the WAIT loads the slot timer, the run counts it down by its ticks and starts no transmission, and a check
holds exactly while the timer runs. -/
theorem slotWaitIsExact : Obligations.SlotWaitIsExact := by
  intro s t r h hwait ops rs u hcheck hreset hrun q
  obtain ⟨hidle, hload⟩ := slotLoad_of_wait h hwait
  have hne {i : Instr} (hi : i ∈ ops) (r : Byte) : i ≠ .caCheck r := ne_of_mem_of_not_mem hi (hcheck r)
  have htx : u.caTxActive = false := by
    refine runOps_keeps (P := fun v => v.caTxActive = false) (fun i hi s t ht hs => ?_) hrun hidle
    by_contra hactive
    obtain ⟨-, r, hr⟩ := halfDuplex.1 i s t ht hs (Bool.eq_true_of_not_eq_false hactive)
    exact hne hi r hr
  have hcount : u.caSlotCnt.toNat = s.caSlot.toNat * 10 - ticksIn ops := by
    rw [← slotLoad_toNat, ← hload]
    exact runOps_countsDown (timer := fun v => v.caSlotCnt.toNat) (fun i hi s t ht => caSlotCnt_of_exec ht
      (hne hi) (ne_of_mem_of_not_mem hi hreset)) hrun
  have hwaiting : u.caSlotCnt ≠ 0 ↔ ticksIn ops < s.caSlot.toNat * 10 := by
    rw [← BitVec.toNat_ne_iff_ne, hcount]
    exact Nat.sub_ne_zero_iff_lt
  rw [← hwaiting]
  refine ⟨fun hheld => ?_, exec_caCheck_of_waiting q htx⟩
  obtain ⟨-, -, hcnt⟩ := exec_held_iff.1 ⟨_, hheld, rfl⟩
  exact hcnt

/-- Settles O49, by induction over the rounds of the loop (`CsmaRuns`). -/
theorem csmaWaitsEverySlot : Obligations.CsmaWaitsEverySlot := by
  intro rounds s k h hgranted
  have hruns := csmaRuns_of_csma h
  obtain ⟨htx, hbusy⟩ := state_of_csmaRuns hruns hgranted
  refine ⟨htx, hbusy, fun m hm hrounds => ?_⟩
  exact Nat.le_of_add_right_le (ticks_of_csmaRuns hruns hgranted hm hrounds)

/-- Settles O57: an operation that does not stop answers a next state, completed or held, and only a CA.CHECK in a slot wait is
held. -/
theorem contractKeepsTheBlockGoing : Obligations.ContractKeepsTheBlockGoing := by
  intro i s hwf hc
  obtain ⟨t, h⟩ | ⟨o, hstops⟩ := next_or_stops i s
  · refine ⟨t, h, (reply_of_exec h).imp_right fun hheld => ⟨hheld, ?_⟩⟩
    exact exec_held_iff.1 ⟨t, h, hheld⟩
  · exact absurd hstops (not_stops_of_wf hwf hc)

/-- Settles O58: the registers of the state that the boot operations leave (`runOps_bootOps`). -/
theorem bootConfiguresTheArbiter : Obligations.BootConfiguresTheArbiter := fun s persistence slot =>
  ⟨_, _, runOps_bootOps s persistence slot, rfl, rfl, rfl, rfl, rfl, rfl, rfl⟩

/-- Settles O59: KF.RXRESET leaves kf_stat, and mask 0x01 of KF.CLRSTAT selects EXIT alone. -/
theorem leavingKissIsSilent : Obligations.LeavingKissIsSilent := by
  intro s
  have hstat (k : Nat) : (clearStat 0x01 s.kfStat).getLsbD k = (s.kfStat.getLsbD k && (0xFE : Byte).getLsbD k) :=
    BitVec.getLsbD_and
  have hmask : ∀ k < 8, k ≠ 0 → (0xFE : Byte).getLsbD k = true := by decide
  refine ⟨_, runOps_leaveKissOps s, rfl, (hstat 0).trans (Bool.and_false _), fun k hk => (hstat k).trans ?_⟩
  by_cases hlt : k < 8
  · rw [hmask k hlt hk, Bool.and_true]
  · rw [BitVec.getLsbD_of_ge _ k (Nat.not_lt.1 hlt), Bool.false_and]

/-- Settles O60: the answer of CA.RXOK, then the answer of AX.PARSE, which does not depend on the reply before it. -/
theorem receiveDuty : Obligations.ReceiveDuty := by
  intro s packet c p
  refine ⟨fun hrx => ?_, fun hrx => ?_⟩
  · rw [receivePacket_eq, hrx]
    exact ⟨_, rfl, rfl⟩
  · obtain ⟨f, n, hafter, hparse⟩ := exec_axParse s packet (.done [] (.bool true))
    rw [receivePacket_eq, if_pos hrx, parsePacket_eq packet c p hafter rfl]
    refine ⟨f, _, hparse, rfl, fun hf => by simp [hf], fun hf => ⟨_, rfl, ?_⟩⟩
    rw [if_pos hf]
    rfl

/-- Settles O7: the reset state, register by register. -/
theorem resetWritesEveryRegister : Obligations.ResetWritesEveryRegister := fun _ =>
  ⟨_, rfl, rfl, rfl, caStatus_eq_sum.trans rfl⟩

/-- Settles O8: BLK.RESET writes the registers of the initial state. -/
theorem initialStateIsReset : Obligations.InitialStateIsReset := fun _ => ⟨_, rfl, rfl⟩

/-- Settles O50, by unit: the empty buffer, the clear status bits, the stopped slot timer. -/
theorem resetMeetsTheInvariant : Obligations.ResetMeetsTheInvariant :=
  inv_iff.2 ⟨validBuf_of_empty rfl rfl, legalStat_zero, Nat.zero_le _, fun _ => rfl⟩

end Sys2Proof.Proofs
